-- ==== Sys2Proof/Word.lean ====
section
/-! DEFINITION. The bytes and words of the block and its value types (10_state.md, section 2).
Every one of them is immutable plain data; the block has no other kind of value. -/

namespace Sys2Proof

/-- 8 bits (00_scope.md, section 5). -/
abbrev Byte := BitVec 8

/-- The 32-bit stored word of an address: of an Address24 (R18, only bits 23:0 mean anything) or of an
Address32 (R19, all 32 bits do). -/
abbrev Word := BitVec 32

/-- Three bytes in the order they are sent, `b0` first: the byte form of an Address24 (R70). -/
structure Bytes3 where
  b0 : Byte
  b1 : Byte
  b2 : Byte
deriving DecidableEq, Repr

/-- Four bytes in the order they are sent, `b0` first: the byte form of an Address32 (R73). -/
structure Bytes4 where
  b0 : Byte
  b1 : Byte
  b2 : Byte
  b3 : Byte
deriving DecidableEq, Repr

/-- The closed set of five error kinds (R23, R120). An error carries nothing beyond its kind (R126). -/
inductive Error where
  | unsupportedCommand
  | unknownOpcode
  | missingAddress
  | unexpectedAddress
  | addressWidthMismatch
deriving DecidableEq, Repr

/-- `Ok(v)` or `Err(e)` (00_scope.md, section 5): the result every invocation hands to its immediate caller.
An error is an ordinary value, no trap (R129). -/
inductive Result (α : Type) where
  | ok (v : α)
  | err (e : Error)
deriving DecidableEq, Repr

/-- The deserializer's optional, width-tagged address argument (R22): `None`, `Some(A24(v))`, `Some(A32(v))`.
The tag is the caller's; no width is ever inferred from the number (R96). -/
inductive AddrArg where
  | absent
  | a24 (v : Word)
  | a32 (v : Word)
deriving DecidableEq, Repr

/-- A frame (R24, R50): format NP, one opcode byte; or format A24, the opcode and the three address bytes.
There is no third format, so no frame of another length can be written down. -/
inductive Frame where
  | np (opcode : Byte)
  | a24 (opcode : Byte) (addr : Bytes3)
deriving DecidableEq, Repr

/-- A Command as a pair (R21): the variant, named by its cmd_id in the opcode table, and the stored word of its
address when it carries one. `Sys2Proof.Instr` is the same for the nine rows of R55, one constructor a variant. The type
also holds pairs that R21 excludes (`Command.OfTable` says which are Commands; assumption 23 what becomes of the others). -/
structure Command where
  id : Nat
  addr : Option Word
deriving DecidableEq, Repr

end Sys2Proof
end

