-- ==== Sys2Proof/Config.lean ====
section
/-! DEFINITION. The parameters of R6, each "a parameter the model takes as an argument, with the default this spec chose":
what each is, and when an opcode table is admissible (R56). Every definition that depends on one takes it as an argument:
`w` for CMD_ID_W, `T` for OPTAB, `o` for the six OPC_ bytes, `reserved` for RESERVED_OPCODES. Where it has a default, that
default is the argument's. The default opcode table (R55) and its bytes stand in Decode.lean. -/

namespace Sys2Proof

/-- The default of parameter CMD_ID_W (R6, D8), the width of the command-identifier ports: 4, the spec's own. -/
abbrev CMD_ID_W : Nat := 4

/-- A command identifier as ports of `w` bits carry it (R25, R26, R28, R29). -/
abbrev CmdId (w : Nat := CMD_ID_W) := BitVec w

/-- The six opcode bytes that are parameters (R6): those of the rows of R55 whose byte the source does not give. -/
structure Opcodes where
  /-- OPC_WRITE_ENABLE. -/
  writeEnable : Byte
  /-- OPC_RESET. -/
  reset : Byte
  /-- OPC_FAST_READ. -/
  fastRead : Byte
  /-- OPC_FAST_READ_DUAL_OUTPUT. -/
  fastReadDualOutput : Byte
  /-- OPC_FAST_READ_QUAD_OUTPUT. -/
  fastReadQuadOutput : Byte
  /-- OPC_READ_SFDP_REGISTER. -/
  readSFDPRegister : Byte
deriving DecidableEq, Repr

/-- What address a command carries (R21). No row of an admissible table has shape `addr32` (R56 d, D16). -/
inductive Shape where
  | noPayload
  | addr24
  | addr32
deriving DecidableEq, Repr

/-- The name of a table row: the nine of R55, and names for the rows a table of another repository may hold
(the command set is open, D2). Rule R56 (e) speaks of "any Dual or Quad read variant", hence `otherDualQuadRead`. -/
inductive Mnemonic where
  | readJEDECID
  | writeEnable
  | reset
  | readData
  | pageProgram
  | fastRead
  | fastReadDualOutput
  | fastReadQuadOutput
  | readSFDPRegister
  | otherDualQuadRead (n : Nat)
  | other (n : Nat)
deriving DecidableEq, Repr

/-- The shape that R56 (e) demands of a row of that name, when present. Condition (e) names neither ReadJEDECID nor ReadData
nor PageProgram: (b) demands a row of each, of its own shape. DESIGN CHOICE (assumption 22): R56 (a) is silent on names, and
the model lets two rows bear one name; a second row named ReadData is held to no shape, as (e) does not list it. -/
def Mnemonic.requiredShape : Mnemonic → Option Shape
  | .writeEnable | .reset => some .noPayload
  | .fastRead | .fastReadDualOutput | .fastReadQuadOutput | .readSFDPRegister | .otherDualQuadRead _ => some .addr24
  | .readJEDECID | .readData | .pageProgram => none
  | .other _ => none

/-- One row of OPTAB (00_scope.md, Table lookups): the fields `.id`, `.mnemonic`, `.shape` and `.opcode`. -/
structure Row where
  id : Nat
  mnemonic : Mnemonic
  shape : Shape
  opcode : Byte
deriving DecidableEq, Repr

/-- Parameter OPTAB (R6): the opcode table. It is a constant of the run, no state (R17, R141). -/
abbrev Optab := List Row

/-- Parameter NCMD (R6): the number of rows of an opcode table. It is no argument beside OPTAB, being the table's length; its
constraints (three rows or more, no more than the identifiers) follow from R56. -/
def Optab.ncmd (T : Optab) : Nat := T.length

/-- The default of parameter RESERVED_OPCODES (R6, R61), empty: bytes that are CommandOpCode values with no Command
variant. Its only effect is condition (g) of R56. -/
def RESERVED_OPCODES : List Byte := []

/-- R56: when an opcode table is admissible, for identifier ports of `w` bits and a set of reserved opcodes: (a) to (g), and
nothing of the rows' names beyond them (assumption 22).
Nothing is claimed of a table that is not (U13 of 93_implementation_defined.md). -/
structure Optab.Admissible (w : Nat) (reserved : List Byte) (T : Optab) : Prop where
  /-- (a), the identifiers. -/
  ids_distinct : (T.map Row.id).Nodup
  /-- (a), the opcodes: "no two operations share an opcode byte". -/
  opcodes_distinct : (T.map Row.opcode).Nodup
  /-- (b), with R54: the three rows the source gives. -/
  has_readJEDECID : ∃ r ∈ T, r.mnemonic = .readJEDECID ∧ r.shape = .noPayload ∧ r.opcode = 0x9F#8
  has_readData : ∃ r ∈ T, r.mnemonic = .readData ∧ r.shape = .addr24 ∧ r.opcode = 0x03#8
  has_pageProgram : ∃ r ∈ T, r.mnemonic = .pageProgram ∧ r.shape = .addr24 ∧ r.opcode = 0x02#8
  /-- (c): 0xFF is no opcode. -/
  opcode_ne_ff : ∀ r ∈ T, r.opcode ≠ 0xFF#8
  /-- (d): no row needs a 32-bit address. -/
  shape_ne_addr32 : ∀ r ∈ T, r.shape ≠ .addr32
  /-- (e): the shapes of the rows it names. -/
  named_shape : ∀ r ∈ T, ∀ sh ∈ r.mnemonic.requiredShape, r.shape = sh
  /-- (f): every identifier fits the ports. -/
  id_fits : ∀ r ∈ T, r.id < 2 ^ w
  /-- (g): no opcode is reserved. -/
  opcode_not_reserved : ∀ r ∈ T, r.opcode ∉ reserved

end Sys2Proof
end

