-- ==== Sys2Proof/Syntax.lean ====
section
/-! DEFINITION. The instruction set: one constructor for each row of spec/opcode_table.json. "Instruction" is the
spec's word for a Command variant (R8); the nine are the rows of the default opcode table (R21, R55). -/

namespace Sys2Proof

/-- A Command of the default opcode table (R21). The address of an address-carrying command is the 32-bit STORED word of
its Address24 (R18): bits 31:24 may be anything and mean nothing. -/
inductive Instr where
  | readJEDECID
  | writeEnable
  | reset
  | readData (addr : Word)
  | pageProgram (addr : Word)
  | fastRead (addr : Word)
  | fastReadDualOutput (addr : Word)
  | fastReadQuadOutput (addr : Word)
  | readSFDPRegister (addr : Word)
deriving DecidableEq, Repr

end Sys2Proof
end

