-- ==== Sys2Proof/Machine/State.lean ====
section
/-! DEFINITION. The state of the machine.
THE BLOCK ITSELF HAS NO STATE: no register, no program counter, no flag, no mode, no memory (R13 to R17, R33, R35).
What stands here is what stands AROUND it, so that it can be run (assumption 1): the values on its input ports
(R25 to R28), which the caller drives and holds; the invocations the caller has still to make; and the answers the
caller has been given. The output ports are no fields: they are, at all times, functions of the input ports
(Machine/Ops.lean), as R16 and section 3 of 10_state.md say. OPTAB is no field either: it is a constant (R17, R141), an
argument of what looks it up. The types take the width `w` of the identifier ports (CMD_ID_W) and, where they hold commands,
the type `I` of commands: `Instr` by default, for the nine commands of R55, or `Command`, for those of any opcode table. -/

namespace Sys2Proof.Machine

/-! ## Input ports -/

/-- The input ports of the serializer unit SER (R25). -/
structure SerIn (w : Nat := CMD_ID_W) where
  /-- `ser_cmd_id`, CMD_ID_W bits. -/
  cmdId : CmdId w
  /-- `ser_addr`, 32 bits. -/
  addr : Word
deriving DecidableEq, Repr

/-- The input port of the frame-length unit FLEN (R26). -/
structure FlenIn (w : Nat := CMD_ID_W) where
  /-- `fl_cmd_id`, CMD_ID_W bits. -/
  cmdId : CmdId w
deriving DecidableEq, Repr

/-- The input ports of the address-encoder unit AENC (R27). -/
structure AencIn where
  /-- `a24_in`, 32 bits. -/
  a24In : Word
  /-- `a32_in`, 32 bits. -/
  a32In : Word
  /-- `x24_bytes`, 24 bits: byte `k` in bits `8k+7:8k`. -/
  x24Bytes : BitVec 24
  /-- `x32_bytes`, 32 bits: byte `k` in bits `8k+7:8k`. -/
  x32Bytes : Word
deriving DecidableEq, Repr

/-- The input ports of the deserializer unit DES (R28). -/
structure DesIn where
  /-- `des_opcode`, 8 bits. -/
  opcode : Byte
  /-- `des_addr_present`, 1 bit. -/
  addrPresent : Bool
  /-- `des_addr_is32`, 1 bit: read only when `des_addr_present` is 1. -/
  addrIs32 : Bool
  /-- `des_addr`, 32 bits. -/
  addr : Word
deriving DecidableEq, Repr

/-! ## Output ports: the types of what the units answer -/

/-- The output ports of SER (R25). -/
structure SerOut where
  /-- `ser_frame`, 32 bits. -/
  frame : Word
  /-- `ser_len`, 3 bits. -/
  len : BitVec 3
  /-- `ser_err`, 3 bits. -/
  err : BitVec 3
deriving DecidableEq, Repr

/-- The output ports of FLEN (R26). -/
structure FlenOut where
  /-- `fl_len`, 3 bits. -/
  len : BitVec 3
  /-- `fl_err`, 3 bits. -/
  err : BitVec 3
deriving DecidableEq, Repr

/-- The output ports of AENC (R27). -/
structure AencOut where
  /-- `a24_bytes`, 24 bits. -/
  a24Bytes : BitVec 24
  /-- `a32_bytes`, 32 bits. -/
  a32Bytes : Word
  /-- `x24_addr`, 32 bits. -/
  x24Addr : Word
  /-- `x32_addr`, 32 bits. -/
  x32Addr : Word
deriving DecidableEq, Repr

/-- The output ports of DES (R28). -/
structure DesOut (w : Nat := CMD_ID_W) where
  /-- `des_err`, 3 bits. -/
  err : BitVec 3
  /-- `des_cmd_id`, CMD_ID_W bits. -/
  cmdId : CmdId w
  /-- `des_cmd_addr`, 32 bits. -/
  cmdAddr : Word
deriving DecidableEq, Repr

/-! ## The caller -/

/-- One invocation of one unit, with the values the caller puts on its input ports: every input combination of every
unit, those that encode no value of the type included (R31). -/
inductive PortRequest (w : Nat := CMD_ID_W) where
  | serialize (cmdId : CmdId w) (addr : Word)
  | frameLength (cmdId : CmdId w)
  | encode24 (v : Word)
  | encode32 (v : Word)
  | decode24 (bytes : BitVec 24)
  | decode32 (bytes : Word)
  | deserialize (opcode : Byte) (addrPresent addrIs32 : Bool) (addr : Word)
deriving DecidableEq, Repr

/-- What the surroundings may do next (R152). -/
inductive Invocation (w : Nat := CMD_ID_W) (I : Type := Instr) where
  /-- The caller drives one unit and reads its answer. -/
  | port (r : PortRequest w)
  /-- The caller "constructs a logical Command" and serializes it. -/
  | command (i : I)
  /-- The transport hands over a received frame: it is deserialized and the resulting Command is run. -/
  | received (f : Frame)
deriving DecidableEq, Repr

/-- What the caller sampled: the outputs of one unit, taken together while its inputs were held (R147). -/
inductive Reply (w : Nat := CMD_ID_W) where
  | ser (o : SerOut)
  | flen (o : FlenOut)
  | a24Bytes (b : BitVec 24)
  | a32Bytes (b : Word)
  | x24Addr (v : Word)
  | x32Addr (v : Word)
  | des (o : DesOut w)
deriving DecidableEq, Repr

/-! ## The state -/

/-- The state, for identifier ports of `w` bits and commands of type `I`. `State` alone is the machine's, at the defaults. -/
structure State (w : Nat := CMD_ID_W) (I : Type := Instr) where
  /-- SER's input ports. -/
  ser : SerIn w
  /-- FLEN's input port. -/
  flen : FlenIn w
  /-- AENC's input ports. -/
  aenc : AencIn
  /-- DES's input ports. -/
  des : DesIn
  /-- The model's own: the invocations still to be made, the next one first. -/
  pending : List (Invocation w I)
  /-- The model's own: the answers given so far, the first one first. No unit reads them (R16). -/
  replies : List (Reply w)
deriving DecidableEq, Repr

/-- The faults. There are none: no invocation blocks, traps or stops the machine (R127, R129, R148); "every input
combination of every unit has a defined output" (R31). The five error kinds are results and no faults (R129). -/
inductive Fault where
deriving DecidableEq, Repr

/-- The refusals. -/
inductive Refusal where
  /-- Raised by `exec` for an instruction that has no meaning yet: by none, every instruction has its own. Safe. -/
  | notModelled (mnemonic : String)
deriving DecidableEq, Repr

/-- Power-up. The block has nothing to reset and no reset input (R32, R140). DESIGN CHOICE (assumption 2, unsafe): the
input ports, which mean nothing "before the caller drives" them, are zero. Nothing is pending and nothing was answered. -/
def State.powerUp {w : Nat} {I : Type} : State w I where
  ser := ⟨0, 0⟩
  flen := ⟨0⟩
  aenc := ⟨0, 0, 0, 0⟩
  des := ⟨0, false, false, 0⟩
  pending := []
  replies := []

/-- Power-up of the machine at the default parameters. -/
def State.reset : State := State.powerUp

end Sys2Proof.Machine
end

