-- ==== Sys2Proof/Machine/Flags.lean ====
section
/-! DEFINITION. The status a unit gives. The block stores no flag (R16); its only status is the error code on `ser_err`,
`fl_err` and `des_err`, an output of the invocation itself. Here are the codes (R120, D9) and, once for all units, what
raising an error puts on the outputs (R129, D12). -/

namespace Sys2Proof.Machine

/-- The numeric error codes of R120, in the taxonomy's order. 6 and 7 are never produced. -/
def errorCode : Error → BitVec 3
  | .unsupportedCommand => 1#3
  | .unknownOpcode => 2#3
  | .missingAddress => 3#3
  | .unexpectedAddress => 4#3
  | .addressWidthMismatch => 5#3

/-- Success (R120). -/
def noError : BitVec 3 := 0#3

/-- "raise": the error code, with the companion outputs zero (R89, R129). -/
def SerOut.raise (e : Error) : SerOut := ⟨0#32, 0#3, errorCode e⟩

/-- "raise": the error code, with the length zero (R89, R129). -/
def FlenOut.raise (e : Error) : FlenOut := ⟨0#3, errorCode e⟩

/-- "raise": the error code, with the companion outputs zero (R102, R129). -/
def DesOut.raise {w : Nat} (e : Error) : DesOut w := ⟨errorCode e, 0#w, 0#32⟩

end Sys2Proof.Machine
end

