-- ==== Sys2Proof/WellFormed.lean ====
section
/-! DEFINITION. Well-formed commands: the address in canonical stored form. The block REFUSES nothing here: a stored
word with any bits 31:24 is a valid Address24 (R18, R41), and the machine runs every `Instr`. Well-formedness singles
out the one stored word of each Address24 value that the deserializer delivers (R99, D7), so that equality of
well-formed commands as data is the equality of R34. -/

namespace Sys2Proof

/-- Bits 31:24 of the stored word are zero: the canonical stored form of an Address24 (R99). -/
def canonicalAddr (v : Word) : Bool := v.extractLsb' 24 8 == 0#8

/-- Every address of the command is in canonical stored form. -/
def Instr.wf : Instr → Bool
  | .readJEDECID => true
  | .writeEnable => true
  | .reset => true
  | .readData v => canonicalAddr v
  | .pageProgram v => canonicalAddr v
  | .fastRead v => canonicalAddr v
  | .fastReadDualOutput v => canonicalAddr v
  | .fastReadQuadOutput v => canonicalAddr v
  | .readSFDPRegister v => canonicalAddr v

end Sys2Proof
end

