-- ==== Sys2Proof/Decode.lean ====
section
/-! DEFINITION. The opcode table's content (R54, R55), the frame formats (R50, R51), the decoder from bytes to commands
(R64, with the address assembled as R52 says) and the encoder from commands to bytes.
The decoder and the encoder are written from the frame formats and the opcode bytes alone; they do not go through
the block's serializer and deserializer (Machine/Ops.lean), which look OPTAB up. That the two agree is a claim.
`decode` and `encode` take the six opcode parameters and speak of the nine commands of R55; `decodeCommand` and
`encodeCommand` take any opcode table and speak of its Commands as pairs (R21). -/

namespace Sys2Proof

/-! ## Opcode bytes -/

/-- R54, from the source: `serialize(ReadJEDECID)` → `[0x9F]`. -/
def OPC_READ_JEDEC_ID : Byte := 0x9F#8
/-- R54, from the source: "ReadData = 0x03". -/
def OPC_READ_DATA : Byte := 0x03#8
/-- R54, from the source: `serialize(PageProgram(Address24(0xABCDEF)))` → `[0x02, 0xEF, 0xCD, 0xAB]`. -/
def OPC_PAGE_PROGRAM : Byte := 0x02#8
/-- PRESUMED (assumption 3): parameter of R6, default from general knowledge (GK1), not in the source. -/
def OPC_WRITE_ENABLE : Byte := 0x06#8
/-- PRESUMED (assumption 3): parameter of R6, default from general knowledge (GK1), not in the source. -/
def OPC_RESET : Byte := 0x99#8
/-- PRESUMED (assumption 3): parameter of R6, default from general knowledge (GK1), not in the source. -/
def OPC_FAST_READ : Byte := 0x0B#8
/-- PRESUMED (assumption 3): parameter of R6, default from general knowledge (GK1), not in the source. -/
def OPC_FAST_READ_DUAL_OUTPUT : Byte := 0x3B#8
/-- PRESUMED (assumption 3): parameter of R6, default from general knowledge (GK1), not in the source. -/
def OPC_FAST_READ_QUAD_OUTPUT : Byte := 0x6B#8
/-- PRESUMED (assumption 3): parameter of R6, default from general knowledge (GK1), not in the source. -/
def OPC_READ_SFDP_REGISTER : Byte := 0x5A#8

/-- The defaults of the six parameters, together. -/
def defaultOpcodes : Opcodes where
  writeEnable := OPC_WRITE_ENABLE
  reset := OPC_RESET
  fastRead := OPC_FAST_READ
  fastReadDualOutput := OPC_FAST_READ_DUAL_OUTPUT
  fastReadQuadOutput := OPC_FAST_READ_QUAD_OUTPUT
  readSFDPRegister := OPC_READ_SFDP_REGISTER

/-- The nine opcode bytes: the source's three and the six parameters, in the order of R55. -/
def Opcodes.all (o : Opcodes) : List Byte :=
  [ OPC_READ_JEDEC_ID, o.writeEnable, o.reset, OPC_READ_DATA, OPC_PAGE_PROGRAM, o.fastRead, o.fastReadDualOutput,
    o.fastReadQuadOutput, o.readSFDPRegister ]

/-- The constraints that R6 puts on the parameters: each byte is "distinct from every other opcode; not 0xFF", and the
reserved bytes are "disjoint from the opcodes". -/
structure Opcodes.Admissible (reserved : List Byte) (o : Opcodes) : Prop where
  distinct : o.all.Nodup
  ne_ff : 0xFF#8 ∉ o.all
  not_reserved : ∀ b ∈ o.all, b ∉ reserved

/-! ## Command identifiers (R29, D8): a row's `.id`; the ports carry it in CMD_ID_W bits -/

def ID_READ_JEDEC_ID : Nat := 0
def ID_WRITE_ENABLE : Nat := 1
def ID_RESET : Nat := 2
def ID_READ_DATA : Nat := 3
def ID_PAGE_PROGRAM : Nat := 4
def ID_FAST_READ : Nat := 5
def ID_FAST_READ_DUAL_OUTPUT : Nat := 6
def ID_FAST_READ_QUAD_OUTPUT : Nat := 7
def ID_READ_SFDP_REGISTER : Nat := 8

/-- The nine rows of R55, in cmd_id order, for any values of the six opcode parameters. -/
def optabOf (o : Opcodes) : Optab :=
  [ ⟨ID_READ_JEDEC_ID, .readJEDECID, .noPayload, OPC_READ_JEDEC_ID⟩,
    ⟨ID_WRITE_ENABLE, .writeEnable, .noPayload, o.writeEnable⟩,
    ⟨ID_RESET, .reset, .noPayload, o.reset⟩,
    ⟨ID_READ_DATA, .readData, .addr24, OPC_READ_DATA⟩,
    ⟨ID_PAGE_PROGRAM, .pageProgram, .addr24, OPC_PAGE_PROGRAM⟩,
    ⟨ID_FAST_READ, .fastRead, .addr24, o.fastRead⟩,
    ⟨ID_FAST_READ_DUAL_OUTPUT, .fastReadDualOutput, .addr24, o.fastReadDualOutput⟩,
    ⟨ID_FAST_READ_QUAD_OUTPUT, .fastReadQuadOutput, .addr24, o.fastReadQuadOutput⟩,
    ⟨ID_READ_SFDP_REGISTER, .readSFDPRegister, .addr24, o.readSFDPRegister⟩ ]

/-- The default of parameter OPTAB (R6, R55): one row per Command variant. -/
def OPTAB : Optab := optabOf defaultOpcodes

/-! ## Table lookups -/

/-- `OPTAB.by_id(i)`: the row whose cmd_id is `i`, or none (00_scope.md, Table lookups; R57, R62). -/
def Optab.byId (T : Optab) (i : Nat) : Option Row := T.find? fun r => r.id == i

/-- `OPTAB.by_opcode(b)`: the row whose opcode byte is `b`, or none: the reverse lookup (R58). All 8 bits of the
opcode are matched (R52, R63). -/
def Optab.byOpcode (T : Optab) (b : Byte) : Option Row := T.find? fun r => r.opcode == b

/-- R21: the pair is a Command of the table: its variant is a row, and it carries an address exactly when the row's shape is
`addr24`. The type Command admits other pairs; what the model does with one is its own choice (assumption 23). -/
def Command.OfTable (T : Optab) (c : Command) : Prop :=
  ∃ r ∈ T, r.id = c.id ∧ ((r.shape = .noPayload ∧ c.addr = none) ∨ (r.shape = .addr24 ∧ c.addr.isSome = true))

/-! ## Byte `k` of a word, and bytes back to a word -/

/-- `v[8k+7:8k]`. -/
def byteAt (v : Word) (k : Nat) : Byte := v.extractLsb' (8 * k) 8

/-- The address `{byte3, byte2, byte1}` of R52, zero-extended to the 32-bit stored word; `a.b0` is frame byte 1. -/
def wordOfBytes3 (a : Bytes3) : Word := (0#8 ++ a.b2) ++ (a.b1 ++ a.b0)

/-! ## Frames -/

/-- The bytes of a frame in the order they are handed to the transport: the opcode byte first (R38, R50). -/
def Frame.bytes : Frame → List Byte
  | .np op => [op]
  | .a24 op a => [op, a.b0, a.b1, a.b2]

/-- Frame byte 0. -/
def Frame.opcode : Frame → Byte
  | .np op => op
  | .a24 op _ => op

/-- The frame length in bytes, as the 3-bit length ports carry it (R30, R64). -/
def Frame.len : Frame → BitVec 3
  | .np _ => 1#3
  | .a24 _ _ => 4#3

/-- The frame word (R30, R51): frame byte `k` in bits `8k+7:8k`, zeros at and above the length. -/
def Frame.word : Frame → Word
  | .np op => (0#8 ++ 0#8) ++ (0#8 ++ op)
  | .a24 op a => (a.b2 ++ a.b1) ++ (a.b0 ++ op)

/-! ## The decoder -/

/-- Why a byte list does not begin with a command. -/
inductive DecodeError where
  /-- There is no byte 0. -/
  | noByte
  /-- Byte 0 is the opcode of no command (R60); the stream cannot be cut after it (R64). -/
  | unknownOpcode (b : Byte)
  /-- Byte 0 is an address-carrying opcode and fewer than three bytes follow. -/
  | truncated (b : Byte)
deriving DecidableEq, Repr

/-- The result of decoding: the command and the bytes that follow its frame, or a rejection by name. The command is an
`Instr`, or a `Command` where the opcode table is any. -/
inductive Decoded (I : Type := Instr) where
  | command (i : I) (rest : List Byte)
  | rejected (why : DecodeError)
deriving DecidableEq, Repr

/-- The no-payload command whose opcode is `b` (format NP of R50). -/
def decodeNoPayload (o : Opcodes) (b : Byte) : Option Instr :=
  if b = OPC_READ_JEDEC_ID then some .readJEDECID
  else if b = o.writeEnable then some .writeEnable
  else if b = o.reset then some .reset
  else none

/-- The address-carrying command whose opcode is `b`, at the address `v` (format A24 of R50). -/
def decodeAddr24 (o : Opcodes) (b : Byte) (v : Word) : Option Instr :=
  if b = OPC_READ_DATA then some (.readData v)
  else if b = OPC_PAGE_PROGRAM then some (.pageProgram v)
  else if b = o.fastRead then some (.fastRead v)
  else if b = o.fastReadDualOutput then some (.fastReadDualOutput v)
  else if b = o.fastReadQuadOutput then some (.fastReadQuadOutput v)
  else if b = o.readSFDPRegister then some (.readSFDPRegister v)
  else none

/-- The no-payload Command of a table whose opcode is `b`. -/
def Optab.noPayloadAt (T : Optab) (b : Byte) : Option Command :=
  match T.byOpcode b with
  | some r => if r.shape = .noPayload then some ⟨r.id, none⟩ else none
  | none => none

/-- The address-carrying Command of a table whose opcode is `b`, at the address `v`. -/
def Optab.addr24At (T : Optab) (b : Byte) (v : Word) : Option Command :=
  match T.byOpcode b with
  | some r => if r.shape = .addr24 then some ⟨r.id, some v⟩ else none
  | none => none

/-- The decoder of a byte stream of R64: byte 0 selects the command, and 0 or 3 more bytes belong to it. `noPayload` and
`addr24` say which byte selects which command. The rejections are the model's own (assumption 16). -/
def decodeBy {I : Type} (noPayload : Byte → Option I) (addr24 : Byte → Word → Option I) : List Byte → Decoded I
  | [] => .rejected .noByte
  | b :: rest =>
    match noPayload b with
    | some i => .command i rest
    | none =>
      match rest with
      | b0 :: b1 :: b2 :: rest' =>
        match addr24 b (wordOfBytes3 ⟨b0, b1, b2⟩) with
        | some i => .command i rest'
        | none => .rejected (.unknownOpcode b)
      | _ =>
        match addr24 b 0#32 with
        | some _ => .rejected (.truncated b)
        | none => .rejected (.unknownOpcode b)

/-- The decoder of the nine commands of R55, for any values of the opcode parameters. -/
def decode (bs : List Byte) (o : Opcodes := defaultOpcodes) : Decoded := decodeBy (decodeNoPayload o) (decodeAddr24 o) bs

/-- The decoder of the Commands of any opcode table. -/
def decodeCommand (T : Optab) (bs : List Byte) : Decoded Command := decodeBy T.noPayloadAt T.addr24At bs

/-- The first frame of a received 32-bit word laid out little-endian (byte 0 lowest, R30): four bytes for an
address-carrying opcode, else byte 0 alone. The bytes are cut outside the block (R53, R64), so that is the model's placing
of a word (assumption 11). -/
def frameOfWord (w : Word) (o : Opcodes := defaultOpcodes) : Frame :=
  match decodeAddr24 o (byteAt w 0) 0#32 with
  | some _ => .a24 (byteAt w 0) ⟨byteAt w 1, byteAt w 2, byteAt w 3⟩
  | none => .np (byteAt w 0)

/-! ## The encoder -/

/-- Format NP of R50. -/
def encodeNP (op : Byte) : List Byte := [op]

/-- Format A24 of R50: the opcode, then `addr[7:0]`, `addr[15:8]`, `addr[23:16]` (R37). -/
def encodeA24 (op : Byte) (v : Word) : List Byte := [op, byteAt v 0, byteAt v 1, byteAt v 2]

/-- The bytes of a command, in the order they are sent, for any values of the opcode parameters. -/
def encode (i : Instr) (o : Opcodes := defaultOpcodes) : List Byte :=
  match i with
  | .readJEDECID => encodeNP OPC_READ_JEDEC_ID
  | .writeEnable => encodeNP o.writeEnable
  | .reset => encodeNP o.reset
  | .readData v => encodeA24 OPC_READ_DATA v
  | .pageProgram v => encodeA24 OPC_PAGE_PROGRAM v
  | .fastRead v => encodeA24 o.fastRead v
  | .fastReadDualOutput v => encodeA24 o.fastReadDualOutput v
  | .fastReadQuadOutput v => encodeA24 o.fastReadQuadOutput v
  | .readSFDPRegister v => encodeA24 o.readSFDPRegister v

/-- The bytes of a Command of any opcode table; none for a pair that is no Command of it (R21). -/
def encodeCommand (T : Optab) (c : Command) : Option (List Byte) :=
  match T.byId c.id with
  | none => none
  | some r =>
    match r.shape, c.addr with
    | .noPayload, none => some (encodeNP r.opcode)
    | .addr24, some v => some (encodeA24 r.opcode v)
    | .noPayload, some _ => none
    | .addr24, none => none
    | .addr32, _ => none

/-! ## The opcode table's patterns and words (R67) -/

/-- One row of spec/opcode_table.json, over the frame word: a frame word `W` of `lengthBytes` bytes spells the command when
`(W & mask) == match`. -/
structure EncodingRow where
  mnemonic : Mnemonic
  lengthBytes : BitVec 3
  pattern : Word
  mask : Word
deriving DecidableEq, Repr

/-- The nine rows; only the opcode byte selects (R67). Six rows name their parameter, whose default the file writes out. -/
def encodingTable (o : Opcodes := defaultOpcodes) : List EncodingRow :=
  [ ⟨.readJEDECID, 1#3, OPC_READ_JEDEC_ID.zeroExtend 32, 0x000000FF#32⟩,
    ⟨.writeEnable, 1#3, o.writeEnable.zeroExtend 32, 0x000000FF#32⟩,
    ⟨.reset, 1#3, o.reset.zeroExtend 32, 0x000000FF#32⟩,
    ⟨.readData, 4#3, OPC_READ_DATA.zeroExtend 32, 0x000000FF#32⟩,
    ⟨.pageProgram, 4#3, OPC_PAGE_PROGRAM.zeroExtend 32, 0x000000FF#32⟩,
    ⟨.fastRead, 4#3, o.fastRead.zeroExtend 32, 0x000000FF#32⟩,
    ⟨.fastReadDualOutput, 4#3, o.fastReadDualOutput.zeroExtend 32, 0x000000FF#32⟩,
    ⟨.fastReadQuadOutput, 4#3, o.fastReadQuadOutput.zeroExtend 32, 0x000000FF#32⟩,
    ⟨.readSFDPRegister, 4#3, o.readSFDPRegister.zeroExtend 32, 0x000000FF#32⟩ ]

/-- The frame spells the row's command (R67, with the length of R64). -/
def EncodingRow.spells (row : EncodingRow) (f : Frame) : Bool :=
  f.len == row.lengthBytes && (f.word &&& row.mask) == row.pattern

/-- The word `w` of `nbits` bits, as spec/opcode_table.json numbers them, with every higher bit zero. DESIGN CHOICE
(assumption 11): so an 8-bit word with an address-carrying opcode, whose frame would end inside its address, gets three
zero address bytes. -/
def tableWord (nbits w : Nat) : Word := BitVec.ofNat 32 (w % 2 ^ nbits)

/-- The four bytes of a word as the hardware stores them: byte 0 first (R30). -/
def bytesOfWord (w : Word) : List Byte := [byteAt w 0, byteAt w 1, byteAt w 2, byteAt w 3]

/-- The instruction the decoder reads from a word of the opcode table, at the default opcode bytes. DESIGN CHOICE
(assumption 11): the spec gives no outcome for a frame that ends inside its address; the word's absent bits are zeros, so
`decodeTableWord 8 0x03` is ReadData at address 0, while the stream `[0x03]` is rejected as truncated (assumption 16). -/
def decodeTableWord (nbits w : Nat) : Option Instr :=
  match decode (bytesOfWord (tableWord nbits w)) with
  | .command i _ => some i
  | .rejected _ => none

end Sys2Proof
end

