-- ==== Sys2Proof/Machine/Operands.lean ====
section
/-! DEFINITION. The operands: the address encoder and its companions (R70, R73 to R75), the packing of bytes on the AENC
ports (R27, R72), the deserializer's argument on the DES ports (R28), the operands of an `Instr`, and the equality
of R34. -/

namespace Sys2Proof.Machine

/-! ## The address encoder (40_address_encoder.md) -/

/-- R70: the three bytes of an Address24, least significant first. Bits 31:24 of the stored word are not read. -/
def encode24 (v : Word) : Bytes3 := ⟨byteAt v 0, byteAt v 1, byteAt v 2⟩

/-- R73: the four bytes of an Address32, least significant first (the spec's own, D13). -/
def encode32 (v : Word) : Bytes4 := ⟨byteAt v 0, byteAt v 1, byteAt v 2, byteAt v 3⟩

/-- R74: `zext_32({b2, b1, b0})`, the address of three received bytes (the spec's own, D14). -/
def decode24 (b : Bytes3) : Word := wordOfBytes3 b

/-- R75: `{b3, b2, b1, b0}`, the address of four received bytes (the spec's own, D14). -/
def decode32 (b : Bytes4) : Word := (b.b3 ++ b.b2) ++ (b.b1 ++ b.b0)

/-! ## Bytes on the AENC ports: byte `k` in bits `8k+7:8k` (R27) -/

def packBytes3 (b : Bytes3) : BitVec 24 := b.b2 ++ (b.b1 ++ b.b0)

def unpackBytes3 (p : BitVec 24) : Bytes3 := ⟨p.extractLsb' 0 8, p.extractLsb' 8 8, p.extractLsb' 16 8⟩

def packBytes4 (b : Bytes4) : Word := (b.b3 ++ b.b2) ++ (b.b1 ++ b.b0)

def unpackBytes4 (p : Word) : Bytes4 := ⟨byteAt p 0, byteAt p 1, byteAt p 2, byteAt p 3⟩

/-! ## The address argument on the DES ports (R28) -/

/-- The AddrArg that `des_addr_present`, `des_addr_is32` and `des_addr` encode: every combination encodes exactly one. -/
def addrArgOfPorts (present is32 : Bool) (addr : Word) : AddrArg :=
  match present, is32 with
  | false, _ => .absent
  | true, false => .a24 addr
  | true, true => .a32 addr

/-! ## Address24 values and their equality (R18, R34) -/

/-- The logical value of a stored word, in canonical stored form: `v & 0xFFFFFF` (R18, R99). -/
def canon24 (v : Word) : Word := v &&& 0x00FFFFFF#32

/-- Two stored words are equal as Address24 (R34). -/
def sameAddr24 (v w : Word) : Prop := canon24 v = canon24 w

/-! ## The operands of an instruction -/

/-- The variant's identifier (R29). -/
def cmdIdOf : Instr → Nat
  | .readJEDECID => ID_READ_JEDEC_ID
  | .writeEnable => ID_WRITE_ENABLE
  | .reset => ID_RESET
  | .readData _ => ID_READ_DATA
  | .pageProgram _ => ID_PAGE_PROGRAM
  | .fastRead _ => ID_FAST_READ
  | .fastReadDualOutput _ => ID_FAST_READ_DUAL_OUTPUT
  | .fastReadQuadOutput _ => ID_FAST_READ_QUAD_OUTPUT
  | .readSFDPRegister _ => ID_READ_SFDP_REGISTER

/-- The stored address word of an address-carrying command; a no-payload command has none (R21). -/
def addrOf : Instr → Option Word
  | .readJEDECID | .writeEnable | .reset => none
  | .readData v | .pageProgram v | .fastRead v | .fastReadDualOutput v | .fastReadQuadOutput v | .readSFDPRegister v => some v

/-- The variant's mnemonic (R55). -/
def mnemonicOf : Instr → Mnemonic
  | .readJEDECID => .readJEDECID
  | .writeEnable => .writeEnable
  | .reset => .reset
  | .readData _ => .readData
  | .pageProgram _ => .pageProgram
  | .fastRead _ => .fastRead
  | .fastReadDualOutput _ => .fastReadDualOutput
  | .fastReadQuadOutput _ => .fastReadQuadOutput
  | .readSFDPRegister _ => .readSFDPRegister

/-- The Command, as the pair of R21. -/
def commandOf (i : Instr) : Command := ⟨cmdIdOf i, addrOf i⟩

/-- The instruction that a reconstructed command names by its cmd_id (R29); 9 and above name none. The address is ignored
for a no-payload command. -/
def instrOf (id : Nat) (v : Word) : Option Instr :=
  if id = ID_READ_JEDEC_ID then some .readJEDECID
  else if id = ID_WRITE_ENABLE then some .writeEnable
  else if id = ID_RESET then some .reset
  else if id = ID_READ_DATA then some (.readData v)
  else if id = ID_PAGE_PROGRAM then some (.pageProgram v)
  else if id = ID_FAST_READ then some (.fastRead v)
  else if id = ID_FAST_READ_DUAL_OUTPUT then some (.fastReadDualOutput v)
  else if id = ID_FAST_READ_QUAD_OUTPUT then some (.fastReadQuadOutput v)
  else if id = ID_READ_SFDP_REGISTER then some (.readSFDPRegister v)
  else none

/-- The Command of a table that a reconstructed command names by its cmd_id (R29), with an address exactly when the row's
shape carries one (R21). -/
def commandNamed (T : Optab) (id : Nat) (v : Word) : Option Command :=
  match T.byId id with
  | none => none
  | some r => some ⟨r.id, if r.shape = .noPayload then none else some v⟩

/-- The same command with its address in canonical stored form (R99). -/
def canonInstr : Instr → Instr
  | .readJEDECID => .readJEDECID
  | .writeEnable => .writeEnable
  | .reset => .reset
  | .readData v => .readData (canon24 v)
  | .pageProgram v => .pageProgram (canon24 v)
  | .fastRead v => .fastRead (canon24 v)
  | .fastReadDualOutput v => .fastReadDualOutput (canon24 v)
  | .fastReadQuadOutput v => .fastReadQuadOutput (canon24 v)
  | .readSFDPRegister v => .readSFDPRegister (canon24 v)

/-- Two Commands are equal (R34): the same variant and, for shape Addr24, equal addresses as Address24. -/
def sameInstr (i j : Instr) : Prop := canonInstr i = canonInstr j

/-- The same Command of any opcode table, with its address in canonical stored form (R99). -/
def canonCommand (c : Command) : Command := ⟨c.id, c.addr.map canon24⟩

/-- Two commands of any opcode table are equal (R34). -/
def sameCommand (c d : Command) : Prop := c.id = d.id ∧ c.addr.map canon24 = d.addr.map canon24

end Sys2Proof.Machine
end

