-- ==== Sys2Proof/Machine/Ops.lean ====
section
/-! DEFINITION. The block's operations at the value level (`serialize`, `frame_length`, `deserialize`, over ANY opcode
table), the units at the port level (R25 to R28, R89, R102), and the shared operations on the state: driving a unit's
input ports and sampling its outputs. There is no trap to take and none to return from (R129, R130): raising an error is
`SerOut.raise`, `FlenOut.raise` and `DesOut.raise` of Flags.lean, and leaves nothing behind. -/

namespace Sys2Proof.Machine

/-! ## The value level -/

/-- `serialize` over a raw cmd_id `i` and a stored address word `v` (R86). A row of shape `addr32` is in no admissible
table (R56 d); DESIGN CHOICE (assumption 9): it is answered with the clean error of R84, never with a frame. -/
def serialize (T : Optab) (i : Nat) (v : Word) : Result Frame :=
  match T.byId i with
  | none => .err .unsupportedCommand
  | some r =>
    match r.shape with
    | .noPayload => .ok (.np r.opcode)
    | .addr24 => .ok (.a24 r.opcode (encode24 v))
    | .addr32 => .err .unsupportedCommand

/-- `serialize` of a Command (R86): for shape NoPayload there is no address to read. DESIGN CHOICE (assumption 23): of a pair
that R21 excludes, an Addr24 variant with no address, it answers the frame at address 0, where the spec says nothing. -/
def serializeCommand (T : Optab) (c : Command) : Result Frame := serialize T c.id (c.addr.getD 0#32)

/-- `frame_length` over a raw cmd_id (R85), independent of the bytes `serialize` makes. -/
def frameLength (T : Optab) (i : Nat) : Result Nat :=
  match T.byId i with
  | none => .err .unsupportedCommand
  | some r =>
    match r.shape with
    | .noPayload => .ok 1
    | .addr24 => .ok 4
    | .addr32 => .err .unsupportedCommand

/-- `deserialize` (R98), with the outcomes that R98's last comment gives for a row of shape `addr32`, were one admitted. -/
def deserialize (T : Optab) (b : Byte) (arg : AddrArg) : Result Command :=
  match T.byOpcode b with
  | none => .err .unknownOpcode
  | some r =>
    match r.shape, arg with
    | .noPayload, .absent => .ok ⟨r.id, none⟩
    | .noPayload, .a24 _ => .err .unexpectedAddress
    | .noPayload, .a32 _ => .err .unexpectedAddress
    | .addr24, .absent => .err .missingAddress
    | .addr24, .a24 v => .ok ⟨r.id, some (canon24 v)⟩
    | .addr24, .a32 _ => .err .addressWidthMismatch
    | .addr32, .absent => .err .missingAddress
    | .addr32, .a24 _ => .err .addressWidthMismatch
    | .addr32, .a32 v => .ok ⟨r.id, some v⟩

/-! ## The port level: each unit a function of its input ports -/

/-- A frame, or the error, on SER's output ports (R30, R89). -/
def serOutOf : Result Frame → SerOut
  | .ok f => ⟨f.word, f.len, noError⟩
  | .err e => SerOut.raise e

/-- A length, or the error, on FLEN's output ports (R89). -/
def flenOutOf : Result Nat → FlenOut
  | .ok n => ⟨BitVec.ofNat 3 n, noError⟩
  | .err e => FlenOut.raise e

/-- A command, or the error, on DES's output ports (R102): the address output is 0 for a no-payload command. -/
def desOutOf {w : Nat} : Result Command → DesOut w
  | .ok c => ⟨noError, BitVec.ofNat w c.id, c.addr.getD 0#32⟩
  | .err e => DesOut.raise e

/-- SER (R25, R89). -/
def serUnit {w : Nat} (T : Optab) (p : SerIn w) : SerOut := serOutOf (serialize T p.cmdId.toNat p.addr)

/-- FLEN (R26, R89). -/
def flenUnit {w : Nat} (T : Optab) (p : FlenIn w) : FlenOut := flenOutOf (frameLength T p.cmdId.toNat)

/-- AENC (R27, R72 to R75). -/
def aencUnit (p : AencIn) : AencOut where
  a24Bytes := packBytes3 (encode24 p.a24In)
  a32Bytes := packBytes4 (encode32 p.a32In)
  x24Addr := decode24 (unpackBytes3 p.x24Bytes)
  x32Addr := decode32 (unpackBytes4 p.x32Bytes)

/-- DES (R28, R102). -/
def desUnit {w : Nat} (T : Optab) (p : DesIn) : DesOut w :=
  desOutOf (deserialize T p.opcode (addrArgOfPorts p.addrPresent p.addrIs32 p.addr))

/-! ## The output ports of a state, for an opcode table -/

section Operations

variable {w : Nat} {I : Type}

/-- `ser_frame`, `ser_len`, `ser_err`, as they stand now. -/
def State.serOut (s : State w I) (T : Optab := OPTAB) : SerOut := serUnit T s.ser

/-- `fl_len`, `fl_err`, as they stand now. -/
def State.flenOut (s : State w I) (T : Optab := OPTAB) : FlenOut := flenUnit T s.flen

/-- `a24_bytes`, `a32_bytes`, `x24_addr`, `x32_addr`, as they stand now. -/
def State.aencOut (s : State w I) : AencOut := aencUnit s.aenc

/-- `des_err`, `des_cmd_id`, `des_cmd_addr`, as they stand now. -/
def State.desOut (s : State w I) (T : Optab := OPTAB) : DesOut w := desUnit T s.des

/-! ## Named updates of the state -/

def State.setSer (s : State w I) (p : SerIn w) : State w I := { s with ser := p }
def State.setFlen (s : State w I) (p : FlenIn w) : State w I := { s with flen := p }
def State.setAenc (s : State w I) (p : AencIn) : State w I := { s with aenc := p }
def State.setDes (s : State w I) (p : DesIn) : State w I := { s with des := p }
def State.setPending (s : State w I) (q : List (Invocation w I)) : State w I := { s with pending := q }

/-- The caller samples an answer (R147). -/
def State.addReply (s : State w I) (r : Reply w) : State w I := { s with replies := s.replies ++ [r] }

/-! ## Invoking a unit: drive its input ports, then sample its outputs, in one indivisible step (R42, R147) -/

def invokeSer (p : SerIn w) (s : State w I) (T : Optab := OPTAB) : State w I :=
  let t := s.setSer p
  t.addReply (.ser (t.serOut T))

def invokeFlen (p : FlenIn w) (s : State w I) (T : Optab := OPTAB) : State w I :=
  let t := s.setFlen p
  t.addReply (.flen (t.flenOut T))

def invokeEncode24 (v : Word) (s : State w I) : State w I :=
  let t := s.setAenc { s.aenc with a24In := v }
  t.addReply (.a24Bytes t.aencOut.a24Bytes)

def invokeEncode32 (v : Word) (s : State w I) : State w I :=
  let t := s.setAenc { s.aenc with a32In := v }
  t.addReply (.a32Bytes t.aencOut.a32Bytes)

def invokeDecode24 (b : BitVec 24) (s : State w I) : State w I :=
  let t := s.setAenc { s.aenc with x24Bytes := b }
  t.addReply (.x24Addr t.aencOut.x24Addr)

def invokeDecode32 (b : Word) (s : State w I) : State w I :=
  let t := s.setAenc { s.aenc with x32Bytes := b }
  t.addReply (.x32Addr t.aencOut.x32Addr)

def invokeDes (p : DesIn) (s : State w I) (T : Optab := OPTAB) : State w I :=
  let t := s.setDes p
  t.addReply (.des (t.desOut T))

/-- One invocation of one unit. -/
def invokePort (r : PortRequest w) (s : State w I) (T : Optab := OPTAB) : State w I :=
  match r with
  | .serialize i v => invokeSer ⟨i, v⟩ s T
  | .frameLength i => invokeFlen ⟨i⟩ s T
  | .encode24 v => invokeEncode24 v s
  | .encode32 v => invokeEncode32 v s
  | .decode24 b => invokeDecode24 b s
  | .decode32 b => invokeDecode32 b s
  | .deserialize op present is32 v => invokeDes ⟨op, present, is32, v⟩ s T

/-! ## Running a command (assumption 5): it is presented to the two functions that take a Command -/

/-- A Command of any opcode table, as a pair: `serialize`, then `frame_length`. Where it carries no address, `ser_addr` stays
as the caller left it (assumption 7); SER ignores it for a no-payload command (R25). -/
def presentCommand (c : Command) (s : State w I) (T : Optab := OPTAB) : State w I :=
  invokeFlen ⟨BitVec.ofNat w c.id⟩ (invokeSer ⟨BitVec.ofNat w c.id, c.addr.getD s.ser.addr⟩ s T) T

/-- The no-payload command with that identifier. -/
def presentNoPayload (id : Nat) (s : State w I) : State w I := presentCommand ⟨id, none⟩ s

/-- The address-carrying command with that identifier, at the stored word `v`. -/
def presentAddr24 (id : Nat) (v : Word) (s : State w I) : State w I := presentCommand ⟨id, some v⟩ s

/-! ## Receiving a frame (assumption 6): the four-byte form of R101 -/

/-- The caller hands a received frame to the block. One byte: the deserializer gets the opcode and no address. Four
bytes: the address extractor turns the three address bytes into a value, which goes to the deserializer tagged A24. -/
def receiveFrame (f : Frame) (s : State w I) (T : Optab := OPTAB) : State w I :=
  match f with
  | .np op => invokeDes { s.des with opcode := op, addrPresent := false } s T
  | .a24 op a =>
    let t := invokeDecode24 (packBytes3 a) s
    invokeDes ⟨op, true, false, t.aencOut.x24Addr⟩ t T

/-- The command on DES's output ports, read as R102 says: only when `des_err` is 0 (R149). `named` says which command an
identifier and an address are. -/
def deserialized (T : Optab) (named : Nat → Word → Option I) (s : State w I) : Option I :=
  if (s.desOut T).err = noError then named (s.desOut T).cmdId.toNat (s.desOut T).cmdAddr else none

/-! ## The next invocation (assumption 6) -/

/-- The surroundings make their next invocation. With nothing pending the block does nothing: it "never starts anything: it
only answers" (R152). `run` runs a command. A received frame is deserialized, and the command on DES's outputs is run; where
`des_err` is not 0 there is no command to run, and the error was the answer (R129). -/
def stepWith (T : Optab) (run : I → State w I → Host.Outcome (State w I) Fault Refusal)
    (named : Nat → Word → Option I) (s : State w I) : Host.Outcome (State w I) Fault Refusal :=
  match s.pending with
  | [] => .next s
  | .port r :: rest => .next (invokePort r (s.setPending rest) T)
  | .command i :: rest => run i (s.setPending rest)
  | .received f :: rest =>
    match deserialized T named (receiveFrame f (s.setPending rest) T) with
    | some i => run i (receiveFrame f (s.setPending rest) T)
    | none => .next (receiveFrame f (s.setPending rest) T)

/-- The meaning of a Command of any opcode table (assumption 5). For the nine rows of R55 the meanings are those of
Machine/NoPayload.lean and Machine/AddressCarrying.lean. -/
def execCommand (T : Optab) (c : Command) (s : State w I) : Host.Outcome (State w I) Fault Refusal :=
  .next (presentCommand c s T)

end Operations

end Sys2Proof.Machine
end

