-- ==== Sys2Proof/Machine/AddressCarrying.lean ====
section
/-! DEFINITION. The meanings of the address-carrying commands (44_commands_address_carrying.md). The block performs no
load and no store (R119): it spells the address operand and moves no data. -/

namespace Sys2Proof.Machine

/-- R113. -/
def execReadData (v : Word) (s : State) : Host.Outcome State Fault Refusal := .next (presentAddr24 ID_READ_DATA v s)

/-- R114. The data payload is no operand (R144). -/
def execPageProgram (v : Word) (s : State) : Host.Outcome State Fault Refusal := .next (presentAddr24 ID_PAGE_PROGRAM v s)

/-- R115. No dummy byte (R88, R145). -/
def execFastRead (v : Word) (s : State) : Host.Outcome State Fault Refusal := .next (presentAddr24 ID_FAST_READ v s)

/-- R116. -/
def execFastReadDualOutput (v : Word) (s : State) : Host.Outcome State Fault Refusal :=
  .next (presentAddr24 ID_FAST_READ_DUAL_OUTPUT v s)

/-- R117. -/
def execFastReadQuadOutput (v : Word) (s : State) : Host.Outcome State Fault Refusal :=
  .next (presentAddr24 ID_FAST_READ_QUAD_OUTPUT v s)

/-- R118. -/
def execReadSFDPRegister (v : Word) (s : State) : Host.Outcome State Fault Refusal :=
  .next (presentAddr24 ID_READ_SFDP_REGISTER v s)

end Sys2Proof.Machine
end

