-- ==== Sys2Proof/Machine/NoPayload.lean ====
section
/-! DEFINITION. The meanings of the no-payload commands (43_commands_no_payload.md). The block spells a command and
executes nothing (R4): what a flash device does with it is outside. -/

namespace Sys2Proof.Machine

/-- R110. -/
def execReadJEDECID (s : State) : Host.Outcome State Fault Refusal := .next (presentNoPayload ID_READ_JEDEC_ID s)

/-- R111. "The block keeps no write enabled latch." -/
def execWriteEnable (s : State) : Host.Outcome State Fault Refusal := .next (presentNoPayload ID_WRITE_ENABLE s)

/-- R112. "It does not reset the block." -/
def execReset (s : State) : Host.Outcome State Fault Refusal := .next (presentNoPayload ID_RESET s)

end Sys2Proof.Machine
end

