-- ==== Sys2Proof/Machine/Dispatch.lean ====
section
/-! DEFINITION. One arm per constructor of Instr. -/

namespace Sys2Proof.Machine

def exec (i : Instr) (s : State) : Host.Outcome State Fault Refusal :=
  match i with
  | .readJEDECID => Sys2Proof.Machine.execReadJEDECID s
  | .writeEnable => Sys2Proof.Machine.execWriteEnable s
  | .reset => Sys2Proof.Machine.execReset s
  | .readData addr => Sys2Proof.Machine.execReadData addr s
  | .pageProgram addr => Sys2Proof.Machine.execPageProgram addr s
  | .fastRead addr => Sys2Proof.Machine.execFastRead addr s
  | .fastReadDualOutput addr => Sys2Proof.Machine.execFastReadDualOutput addr s
  | .fastReadQuadOutput addr => Sys2Proof.Machine.execFastReadQuadOutput addr s
  | .readSFDPRegister addr => Sys2Proof.Machine.execReadSFDPRegister addr s

end Sys2Proof.Machine
end

