-- ==== Sys2Proof/Machine/Step.lean ====
section
/-! DEFINITION. One step: the surroundings make their next invocation (`stepWith` of Machine/Ops.lean); at the defaults of the
parameters, and at any. -/

namespace Sys2Proof.Machine

/-- One step of the machine at the default parameters, whose commands are the nine instructions. -/
def step (s : State) : Host.Outcome State Fault Refusal := stepWith OPTAB exec instrOf s

/-- One step of the machine at any opcode table and any width of the identifier ports (R6), whose commands are the Commands
of the table as pairs (R21). -/
def stepOf {w : Nat} (T : Optab) (s : State w Command) : Host.Outcome (State w Command) Fault Refusal :=
  stepWith T (execCommand T) (commandNamed T) s

/-- The machine at any opcode table and any width of the identifier ports. -/
def coreOf (w : Nat) (T : Optab) : Host.Core where
  State := State w Command
  Fault := Fault
  Refusal := Refusal
  step := stepOf T
  reset := State.powerUp

/-- The state in which the transport has just received the frame that a word of the opcode table spells, and hands it over
as the next invocation (assumption 11). -/
def State.withFetchWord (s : State) (nbits w : Nat) : State :=
  s.setPending (.received (frameOfWord (tableWord nbits w)) :: s.pending)

end Sys2Proof.Machine
end

