-- ==== Sys2Proof/Machine/Text.lean ====
section
/-! DEFINITION. The textual syntax of R65 (D18), over lists of characters: how a command, a frame and a result are written,
and how a command and an invocation are read. The machine reads no text; this is the notation of the spec's examples.
There are no pseudo-instructions (R66). What R65 leaves open is fixed in assumption 17. -/

namespace Sys2Proof.Machine

/-! ## Writing -/

/-- The hexadecimal digit of a number below 16, in capitals as the spec's examples write it. -/
def hexDigit (n : Nat) : Char :=
  if n < 10 then Char.ofNat (48 + n) else Char.ofNat (55 + n)

/-- The last `k` hexadecimal digits of a number, most significant first. -/
def hexDigits : Nat → Nat → List Char
  | 0, _ => []
  | k + 1, n => hexDigits k (n / 16) ++ [hexDigit (n % 16)]

/-- `0x` and `k` digits. -/
def hexText (k n : Nat) : List Char := '0' :: 'x' :: hexDigits k n

/-- The mnemonic of a variant, spelled exactly as in R55. -/
def mnemonicText : Instr → List Char
  | .readJEDECID => ['R', 'e', 'a', 'd', 'J', 'E', 'D', 'E', 'C', 'I', 'D']
  | .writeEnable => ['W', 'r', 'i', 't', 'e', 'E', 'n', 'a', 'b', 'l', 'e']
  | .reset => ['R', 'e', 's', 'e', 't']
  | .readData _ => ['R', 'e', 'a', 'd', 'D', 'a', 't', 'a']
  | .pageProgram _ => ['P', 'a', 'g', 'e', 'P', 'r', 'o', 'g', 'r', 'a', 'm']
  | .fastRead _ => ['F', 'a', 's', 't', 'R', 'e', 'a', 'd']
  | .fastReadDualOutput _ => ['F', 'a', 's', 't', 'R', 'e', 'a', 'd', 'D', 'u', 'a', 'l', 'O', 'u', 't', 'p', 'u', 't']
  | .fastReadQuadOutput _ => ['F', 'a', 's', 't', 'R', 'e', 'a', 'd', 'Q', 'u', 'a', 'd', 'O', 'u', 't', 'p', 'u', 't']
  | .readSFDPRegister _ => ['R', 'e', 'a', 'd', 'S', 'F', 'D', 'P', 'R', 'e', 'g', 'i', 's', 't', 'e', 'r']

/-- `Address24(<number>)`: the logical value, six hexadecimal digits. -/
def address24Text (v : Word) : List Char :=
  ['A', 'd', 'd', 'r', 'e', 's', 's', '2', '4', '('] ++ hexText 6 (canon24 v).toNat ++ [')']

/-- A command: its mnemonic, applied to its address where it has one. -/
def commandText (i : Instr) : List Char :=
  match addrOf i with
  | none => mnemonicText i
  | some v => mnemonicText i ++ '(' :: address24Text v ++ [')']

/-- The elements of a bracketed list, separated by a comma and a space. -/
def bytesText : List Byte → List Char
  | [] => []
  | [b] => hexText 2 b.toNat
  | b :: rest => hexText 2 b.toNat ++ ',' :: ' ' :: bytesText rest

/-- A frame: `[0x03, 0x00, 0x01, 0x00]`. -/
def frameText (f : Frame) : List Char := '[' :: bytesText f.bytes ++ [']']

/-- The name of an error kind (R23). -/
def errorText : Error → List Char
  | .unsupportedCommand => ['U', 'n', 's', 'u', 'p', 'p', 'o', 'r', 't', 'e', 'd', 'C', 'o', 'm', 'm', 'a', 'n', 'd']
  | .unknownOpcode => ['U', 'n', 'k', 'n', 'o', 'w', 'n', 'O', 'p', 'c', 'o', 'd', 'e']
  | .missingAddress => ['M', 'i', 's', 's', 'i', 'n', 'g', 'A', 'd', 'd', 'r', 'e', 's', 's']
  | .unexpectedAddress => ['U', 'n', 'e', 'x', 'p', 'e', 'c', 't', 'e', 'd', 'A', 'd', 'd', 'r', 'e', 's', 's']
  | .addressWidthMismatch =>
      ['A', 'd', 'd', 'r', 'e', 's', 's', 'W', 'i', 'd', 't', 'h', 'M', 'i', 's', 'm', 'a', 't', 'c', 'h']

/-- A result: `Ok(<value>)` or `Err(<error kind>)`. -/
def resultText {α : Type} (value : α → List Char) : Result α → List Char
  | .ok v => ['O', 'k', '('] ++ value v ++ [')']
  | .err e => ['E', 'r', 'r', '('] ++ errorText e ++ [')']

/-! ## Reading -/

/-- The value of a hexadecimal digit, capital or small. -/
def digitValue (c : Char) : Option Nat :=
  if 48 ≤ c.toNat ∧ c.toNat ≤ 57 then some (c.toNat - 48)
  else if 65 ≤ c.toNat ∧ c.toNat ≤ 70 then some (c.toNat - 55)
  else if 97 ≤ c.toNat ∧ c.toNat ≤ 102 then some (c.toNat - 87)
  else none

/-- The digits of a number in a base, after those already read. -/
def readDigits (base : Nat) : Nat → List Char → Option Nat
  | acc, [] => some acc
  | acc, c :: cs =>
    match digitValue c with
    | some d => if d < base then readDigits base (acc * base + d) cs else none
    | none => none

/-- A number: hexadecimal with `0x`, or decimal; at least one digit. -/
def readNumber : List Char → Option Nat
  | [] => none
  | '0' :: 'x' :: [] => none
  | '0' :: 'x' :: ds => readDigits 16 0 ds
  | ds => readDigits 10 0 ds

/-- The characters up to the first `stop`, and those after it. -/
def splitAt1 (stop : Char) : List Char → Option (List Char × List Char)
  | [] => none
  | c :: cs =>
    if c = stop then some ([], cs)
    else match splitAt1 stop cs with
      | some (a, b) => some (c :: a, b)
      | none => none

/-- What follows the text `lit`, where the characters begin with it. -/
def readLit : List Char → List Char → Option (List Char)
  | [], cs => some cs
  | l :: ls, c :: cs => if l = c then readLit ls cs else none
  | _ :: _, [] => none

/-- A number below `bound`, closed by `stop`. -/
def readNumberTo (stop : Char) (bound : Nat) (cs : List Char) : Option (Nat × List Char) :=
  match splitAt1 stop cs with
  | none => none
  | some (ds, rest) =>
    match readNumber ds with
    | some n => if n < bound then some (n, rest) else none
    | none => none

/-- `Address24(<number>)`: any 32-bit stored word (R18). -/
def readAddress24 (cs : List Char) : Option (Word × List Char) :=
  match readLit ['A', 'd', 'd', 'r', 'e', 's', 's', '2', '4', '('] cs with
  | none => none
  | some r => (readNumberTo ')' (2 ^ 32) r).map fun p => (BitVec.ofNat 32 p.1, p.2)

/-- `Address32(<number>)`. -/
def readAddress32 (cs : List Char) : Option (Word × List Char) :=
  match readLit ['A', 'd', 'd', 'r', 'e', 's', 's', '3', '2', '('] cs with
  | none => none
  | some r => (readNumberTo ')' (2 ^ 32) r).map fun p => (BitVec.ofNat 32 p.1, p.2)

/-- A mnemonic is made of letters and digits; case matters. -/
def isNameChar (c : Char) : Bool :=
  (48 ≤ c.toNat && c.toNat ≤ 57) || (65 ≤ c.toNat && c.toNat ≤ 90) || (97 ≤ c.toNat && c.toNat ≤ 122)

/-- The no-payload command of that name. -/
def noPayloadNamed (name : List Char) : Option Instr :=
  if name = mnemonicText .readJEDECID then some .readJEDECID
  else if name = mnemonicText .writeEnable then some .writeEnable
  else if name = mnemonicText .reset then some .reset
  else none

/-- The address-carrying command of that name. -/
def addr24Named (name : List Char) (v : Word) : Option Instr :=
  if name = mnemonicText (.readData v) then some (.readData v)
  else if name = mnemonicText (.pageProgram v) then some (.pageProgram v)
  else if name = mnemonicText (.fastRead v) then some (.fastRead v)
  else if name = mnemonicText (.fastReadDualOutput v) then some (.fastReadDualOutput v)
  else if name = mnemonicText (.fastReadQuadOutput v) then some (.fastReadQuadOutput v)
  else if name = mnemonicText (.readSFDPRegister v) then some (.readSFDPRegister v)
  else none

/-- A command, and what follows it. -/
def readCommand (cs : List Char) : Option (Instr × List Char) :=
  match noPayloadNamed (cs.takeWhile isNameChar), cs.dropWhile isNameChar with
  | some i, rest => some (i, rest)
  | none, '(' :: rest =>
    match readAddress24 rest with
    | some (v, ')' :: rest') => (addr24Named (cs.takeWhile isNameChar) v).map fun i => (i, rest')
    | _ => none
  | none, _ => none

/-- `None` or `Some(<address>)`. -/
def readAddrArg (cs : List Char) : Option (AddrArg × List Char) :=
  match readLit ['N', 'o', 'n', 'e'] cs, readLit ['S', 'o', 'm', 'e', '('] cs with
  | some rest, _ => some (.absent, rest)
  | none, some r =>
    match readAddress24 r, readAddress32 r with
    | some (v, ')' :: rest), _ => some (.a24 v, rest)
    | none, some (v, ')' :: rest) => some (.a32 v, rest)
    | _, _ => none
  | none, none => none

/-- The port request that presents an AddrArg (R28). DESIGN CHOICE (assumption 17): with `None` the ports the deserializer then
ignores, `des_addr_is32` and `des_addr`, are driven to zero. -/
def deserializeRequest {w : Nat} (op : Byte) : AddrArg → PortRequest w
  | .absent => .deserialize op false false 0
  | .a24 v => .deserialize op true false v
  | .a32 v => .deserialize op true true v

/-- A whole invocation: `serialize(<command>)`, `frame_length(<command>)`, `encode24(<address>)` or
`deserialize(<byte>, None | Some(<address>))`. DESIGN CHOICE (assumption 17): a text gives no value to the port its invocation
ignores, and the request drives it to zero: `ser_addr` for `serialize(<no-payload command>)`, which SER ignores (R25), and the
ports that `deserializeRequest` names. -/
def readInvocation (cs : List Char) : Option Invocation :=
  match readLit ['s', 'e', 'r', 'i', 'a', 'l', 'i', 'z', 'e', '('] cs,
      readLit ['f', 'r', 'a', 'm', 'e', '_', 'l', 'e', 'n', 'g', 't', 'h', '('] cs,
      readLit ['e', 'n', 'c', 'o', 'd', 'e', '2', '4', '('] cs,
      readLit ['d', 'e', 's', 'e', 'r', 'i', 'a', 'l', 'i', 'z', 'e', '('] cs with
  | some r, _, _, _ =>
    match readCommand r with
    | some (i, [')']) => some (.port (.serialize (BitVec.ofNat CMD_ID_W (cmdIdOf i)) ((addrOf i).getD 0)))
    | _ => none
  | none, some r, _, _ =>
    match readCommand r with
    | some (i, [')']) => some (.port (.frameLength (BitVec.ofNat CMD_ID_W (cmdIdOf i))))
    | _ => none
  | none, none, some r, _ =>
    match readAddress24 r with
    | some (v, [')']) => some (.port (.encode24 v))
    | _ => none
  | none, none, none, some r =>
    match readNumberTo ',' 256 r with
    | some (b, ' ' :: r') =>
      match readAddrArg r' with
      | some (arg, [')']) => some (.port (deserializeRequest (BitVec.ofNat 8 b) arg))
      | _ => none
    | _ => none
  | none, none, none, none => none

end Sys2Proof.Machine
end

