-- ==== Sys2Proof/Safety.lean ====
section
/-! DEFINITION. The terms claims are stated in: what each invocation must answer, from its own inputs and the constant
OPTAB alone (R13); when an answer is sane (R24, R88, R89, R99, R102, R149); and which fields a step may touch. Each takes the
opcode table `T`, whose default is OPTAB. -/

namespace Sys2Proof.Machine

section Answers

variable {w : Nat} {I : Type}

/-! ## What an invocation must answer, said at the value level -/

/-- The answer of one unit, computed by the value-level function and packed on the ports. -/
def portAnswer (r : PortRequest w) (T : Optab := OPTAB) : Reply w :=
  match r with
  | .serialize i v => .ser (serOutOf (serialize T i.toNat v))
  | .frameLength i => .flen (flenOutOf (frameLength T i.toNat))
  | .encode24 v => .a24Bytes (packBytes3 (encode24 v))
  | .encode32 v => .a32Bytes (packBytes4 (encode32 v))
  | .decode24 b => .x24Addr (decode24 (unpackBytes3 b))
  | .decode32 b => .x32Addr (decode32 (unpackBytes4 b))
  | .deserialize op present is32 v => .des (desOutOf (deserialize T op (addrArgOfPorts present is32 v)))

/-- The answers to a Command: its frame and its length. -/
def commandAnswers (c : Command) (T : Optab := OPTAB) : List (Reply w) :=
  [.ser (serOutOf (serializeCommand T c)), .flen (flenOutOf (frameLength T c.id))]

/-- The answers after a deserialization: those of the command it gave, if it gave one. -/
def runAnswers (T : Optab) : Result Command → List (Reply w)
  | .ok c => commandAnswers c T
  | .err _ => []

/-- What the address extractor answers when a frame is received: the address of the three bytes, where there are any. -/
def extractorAnswers : Frame → List (Reply w)
  | .np _ => []
  | .a24 _ a => [.x24Addr (decode24 a)]

/-- The deserializer's argument for a received frame: the address bytes through the address extractor (R101). -/
def argOfFrame : Frame → AddrArg
  | .np _ => .absent
  | .a24 _ a => .a24 (decode24 a)

/-- What the deserializer gives for a received frame. -/
def deserializeFrame (T : Optab) (f : Frame) : Result Command := deserialize T f.opcode (argOfFrame f)

/-- The answers to one invocation: a function of the invocation and the opcode table, of nothing else (R13). Which units a
command and a received frame are put to is the model's choice (assumptions 5 and 6). `pair` is a command as a pair. -/
def answersWith (T : Optab) (pair : I → Command) : Invocation w I → List (Reply w)
  | .port r => [portAnswer r T]
  | .command i => commandAnswers (pair i) T
  | .received f => extractorAnswers f ++ .des (desOutOf (deserializeFrame T f)) :: runAnswers T (deserializeFrame T f)

/-- The answers of the machine at the default parameters. -/
def answersOf : Invocation → List Reply := answersWith OPTAB commandOf

/-! ## Sane answers -/

/-- SER's outputs: a frame of length 1 or 4 that begins with an opcode of that shape, zeros above the length; or
UnsupportedCommand with nothing else (R24, R88, R89). -/
def SerOut.Sane (o : SerOut) (T : Optab := OPTAB) : Prop :=
  (o.err = noError ∧ ∃ r ∈ T,
    (r.shape = .noPayload ∧ o.len = 1#3 ∧ o.frame = r.opcode.zeroExtend 32) ∨
    (r.shape = .addr24 ∧ o.len = 4#3 ∧ byteAt o.frame 0 = r.opcode)) ∨
  o = SerOut.raise .unsupportedCommand

/-- FLEN's outputs: 1, 4, or UnsupportedCommand (R85, R89). -/
def FlenOut.Sane (o : FlenOut) : Prop :=
  o = ⟨1#3, noError⟩ ∨ o = ⟨4#3, noError⟩ ∨ o = FlenOut.raise .unsupportedCommand

/-- DES's outputs: a command of the table with a canonical address, zero where it carries none; or one of the four parse
errors with nothing else (R93, R99, R102). -/
def DesOut.Sane (o : DesOut w) (T : Optab := OPTAB) : Prop :=
  (o.err = noError ∧ canonicalAddr o.cmdAddr = true ∧
    ∃ r ∈ T, o.cmdId.toNat = r.id ∧ (r.shape = .noPayload → o.cmdAddr = 0#32)) ∨
  o = DesOut.raise .unknownOpcode ∨ o = DesOut.raise .missingAddress ∨
  o = DesOut.raise .unexpectedAddress ∨ o = DesOut.raise .addressWidthMismatch

/-- An answer the block may give. Every value is a possible encoding, and every 32-bit value a possible Address32. -/
def Reply.Sane (r : Reply w) (T : Optab := OPTAB) : Prop :=
  match r with
  | .ser o => o.Sane T
  | .flen o => o.Sane
  | .a24Bytes _ => True
  | .a32Bytes _ => True
  | .x24Addr v => canonicalAddr v = true
  | .x32Addr _ => True
  | .des o => o.Sane T

/-- Every answer the caller was ever given is sane. -/
def State.Sane (s : State w I) (T : Optab := OPTAB) : Prop := ∀ r ∈ s.replies, r.Sane T

/-! ## The machine at the default parameters inside the machine at any -/

/-- The same invocation, with its command as a pair. -/
def Invocation.paired : Invocation → Invocation CMD_ID_W Command
  | .port r => .port r
  | .command i => .command (commandOf i)
  | .received f => .received f

/-- The same state, with every pending command as a pair. -/
def State.paired (s : State) : State CMD_ID_W Command where
  ser := s.ser
  flen := s.flen
  aenc := s.aenc
  des := s.des
  pending := s.pending.map Invocation.paired
  replies := s.replies

end Answers

/-! ## Frames and completion -/

/-- `t` differs from `s` at most in SER's and FLEN's input ports and in the answers. -/
def State.OnlySerFlenDriven {w : Nat} {I : Type} (s t : State w I) : Prop :=
  t.aenc = s.aenc ∧ t.des = s.des ∧ t.pending = s.pending

/-- What running a no-payload command of identifier `id` and opcode `op` does, from every state: it completes; SER answers
the one-byte frame and FLEN answers 1, both without an error; `ser_addr` stays; nothing else changes. -/
def NoPayloadCompletes (i : Instr) (id : Nat) (op : Byte) : Prop :=
  ∀ s : State, ∃ t : State, exec i s = .next t ∧
    t.ser = ⟨BitVec.ofNat CMD_ID_W id, s.ser.addr⟩ ∧ t.flen = ⟨BitVec.ofNat CMD_ID_W id⟩ ∧
    t.serOut = ⟨op.zeroExtend 32, 1#3, 0#3⟩ ∧ t.flenOut = ⟨1#3, 0#3⟩ ∧
    t.replies = s.replies ++ [.ser ⟨op.zeroExtend 32, 1#3, 0#3⟩, .flen ⟨1#3, 0#3⟩] ∧
    State.OnlySerFlenDriven s t

/-- What running an address-carrying command of identifier `id` and opcode `op` does, from every state and at every stored
address word: it completes; SER answers the frame word `(a << 8) | opcode` with `a = v & 0xFFFFFF` and FLEN answers 4,
both without an error; nothing else changes. -/
def Addr24Completes (mk : Word → Instr) (id : Nat) (op : Byte) : Prop :=
  ∀ (v : Word) (s : State), ∃ t : State, exec (mk v) s = .next t ∧
    t.ser = ⟨BitVec.ofNat CMD_ID_W id, v⟩ ∧ t.flen = ⟨BitVec.ofNat CMD_ID_W id⟩ ∧
    t.serOut = ⟨((v &&& 0x00FFFFFF#32) <<< 8) ||| op.zeroExtend 32, 4#3, 0#3⟩ ∧ t.flenOut = ⟨4#3, 0#3⟩ ∧
    t.replies = s.replies ++
      [.ser ⟨((v &&& 0x00FFFFFF#32) <<< 8) ||| op.zeroExtend 32, 4#3, 0#3⟩, .flen ⟨4#3, 0#3⟩] ∧
    State.OnlySerFlenDriven s t

end Sys2Proof.Machine
end

