-- ==== Sys2Proof/Certificates/Slice0/Obligations.lean ====
section
/-! DEFINITION. The statements. Those over a table `T` hold of every admissible opcode table (R56), those over opcodes `o` of
every admissible choice of the six opcode parameters (R6): neither rests on a default opcode byte. Those about `OPTAB` and
`step` rest on the default table (assumptions 3 and 4) and name the opcode bytes by their parameter names where the source
gives none. -/

open Sys2Proof Sys2Proof.Machine

/-! ## The address encoder and its companions -/

/-- R70: the three bytes are the three low base-256 digits of the stored word, least significant first; the worked
example. -/
def Obligations.Encode24GivesTheLowBytesLeastSignificantFirst : Prop :=
  (∀ v : Word,
    (encode24 v).b0.toNat = v.toNat % 256 ∧
    (encode24 v).b1.toNat = v.toNat / 256 % 256 ∧
    (encode24 v).b2.toNat = v.toNat / 65536 % 256) ∧
  encode24 0x00010203#32 = ⟨0x03#8, 0x02#8, 0x01#8⟩

/-- The high-bits law, injectivity on Address24 values, and onto (40_address_encoder.md, section 1). -/
def Obligations.Encode24SeesExactlyTheLow24Bits : Prop :=
  (∀ v w : Word, encode24 v = encode24 w ↔ v.extractLsb' 0 24 = w.extractLsb' 0 24) ∧
  (∀ v : Word, encode24 v = encode24 (v &&& 0x00FFFFFF#32) ∧ encode24 v = encode24 (v ||| 0xFF000000#32)) ∧
  (∀ b : Bytes3, ∃ v : Word, encode24 v = b)

/-- The companions are inverses of the encoders, `decode24` onto the canonical stored word (the spec's own D13, D14). -/
def Obligations.AddressDecodersInvertTheEncoders : Prop :=
  (∀ b : Bytes3, encode24 (decode24 b) = b) ∧
  (∀ v : Word, decode24 (encode24 v) = v &&& 0x00FFFFFF#32) ∧
  (∀ b : Bytes4, encode32 (decode32 b) = b) ∧
  (∀ v : Word, decode32 (encode32 v) = v)

/-- AENC at the ports is wiring (D10, D13, D14), and `x24_addr` has bits 31:24 zero. -/
def Obligations.AencPortsAreWiring : Prop :=
  ∀ p : AencIn,
    (aencUnit p).a24Bytes = p.a24In.extractLsb' 0 24 ∧
    (aencUnit p).a32Bytes = p.a32In ∧
    (aencUnit p).x24Addr = p.x24Bytes.zeroExtend 32 ∧
    (aencUnit p).x32Addr = p.x32Bytes

/-! ## The opcode table -/

/-- R54: the facts the source fixes for every admissible table: the three opcodes, and 0xFF unknown. -/
def Obligations.SourcedOpcodesHoldInEveryAdmissibleTable : Prop :=
  ∀ (w : Nat) (reserved : List Byte) (T : Optab), T.Admissible w reserved →
    (∃ r ∈ T, r.mnemonic = .readData ∧ ∀ v, serialize T r.id v = .ok (.a24 0x03#8 (encode24 v))) ∧
    (∃ r ∈ T, r.mnemonic = .readJEDECID ∧ (∀ v, serialize T r.id v = .ok (.np 0x9F#8)) ∧
      deserialize T 0x9F#8 .absent = .ok ⟨r.id, none⟩) ∧
    (∃ r ∈ T, r.mnemonic = .pageProgram ∧ ∀ v, serialize T r.id v = .ok (.a24 0x02#8 (encode24 v))) ∧
    (∀ arg, deserialize T 0xFF#8 arg = .err .unknownOpcode)

/-- R57, R58: the forward lookup is total over the table's variants; the reverse lookup answers for exactly the bytes of
the opcode column, with the one row that has the byte, and undoes the forward lookup. -/
def Obligations.ReverseLookupUndoesTheForwardLookup : Prop :=
  ∀ (w : Nat) (reserved : List Byte) (T : Optab), T.Admissible w reserved →
    (∀ r ∈ T, T.byId r.id = some r ∧ T.byOpcode r.opcode = some r) ∧
    (∀ b r, T.byOpcode b = some r ↔ r ∈ T ∧ r.opcode = b) ∧
    (∀ b, T.byOpcode b = none ↔ b ∉ T.map Row.opcode)

/-- R60, for the default table: exactly 9 of the 256 bytes have a row, and each of the other 247 is UnknownOpcode to the
deserializer, whatever the argument. That the decoder of byte streams rejects such a byte by name, having looked at it before
anything that follows, is the model's choice (assumption 16). Rests on the default table (assumptions 3 and 4). -/
def Obligations.DefaultTableKnowsExactlyNineBytes : Prop :=
  ((List.range 256).filter fun n => (OPTAB.byOpcode (BitVec.ofNat 8 n)).isSome).length = 9 ∧
  ∀ b : Byte, b ∉ OPTAB.map Row.opcode →
    (∀ arg, deserialize OPTAB b arg = .err .unknownOpcode) ∧
    (∀ rest, decode (b :: rest) = .rejected (.unknownOpcode b))

/-- The constraints of R6 on the opcode parameters are exactly what makes the nine rows of R55 admissible; the defaults meet
them. -/
def Obligations.OpcodeParametersMakeAnAdmissibleTable : Prop :=
  (∀ (reserved : List Byte) (o : Opcodes), (optabOf o).Admissible CMD_ID_W reserved ↔ o.Admissible reserved) ∧
  defaultOpcodes.Admissible RESERVED_OPCODES

/-- NCMD (R6, R58, R60): an admissible table has three rows or more, and no more than the ports have identifiers; exactly NCMD
of the 256 bytes have a row, so that 256 - NCMD are unknown. The default table has nine (assumption 4). -/
def Obligations.NcmdBytesAreKnown : Prop :=
  (∀ (w : Nat) (reserved : List Byte) (T : Optab), T.Admissible w reserved →
    3 ≤ T.ncmd ∧ T.ncmd ≤ 2 ^ w ∧
    ((List.range 256).filter fun n => (T.byOpcode (BitVec.ofNat 8 n)).isSome).length = T.ncmd ∧
    ((List.range 256).filter fun n => (T.byOpcode (BitVec.ofNat 8 n)).isNone).length = 256 - T.ncmd) ∧
  OPTAB.ncmd = 9

/-! ## The serializer and the frame length -/

/-- R82, R83, R86: the whole of `serialize`, over any table and any raw identifier; the worked examples on the default
table. -/
def Obligations.SerializeFollowsTheShapeOfTheRow : Prop :=
  ∀ (T : Optab) (i : Nat) (v : Word),
    (T.byId i = none → serialize T i v = .err .unsupportedCommand) ∧
    (∀ r, T.byId i = some r → r.shape = .noPayload → serialize T i v = .ok (.np r.opcode)) ∧
    (∀ r, T.byId i = some r → r.shape = .addr24 → serialize T i v = .ok (.a24 r.opcode (encode24 v))) ∧
    serialize OPTAB 0 v = .ok (.np 0x9F#8) ∧
    serialize OPTAB 3 0x00000100#32 = .ok (.a24 0x03#8 ⟨0x00#8, 0x01#8, 0x00#8⟩) ∧
    serialize OPTAB 4 0x00ABCDEF#32 = .ok (.a24 0x02#8 ⟨0xEF#8, 0xCD#8, 0xAB#8⟩)

/-- R85: the whole of `frame_length`, over any table and any raw identifier; the worked examples on the default
table. -/
def Obligations.FrameLengthFollowsTheShapeOfTheRow : Prop :=
  ∀ (T : Optab) (i : Nat),
    (T.byId i = none → frameLength T i = .err .unsupportedCommand) ∧
    (∀ r, T.byId i = some r → r.shape = .noPayload → frameLength T i = .ok 1) ∧
    (∀ r, T.byId i = some r → r.shape = .addr24 → frameLength T i = .ok 4) ∧
    (∀ n, frameLength T i = .ok n → n = 1 ∨ n = 4) ∧
    frameLength OPTAB 0 = .ok 1 ∧ frameLength OPTAB 3 = .ok 4

/-- `serialize` and `frame_length` agree on supportedness and on the length, for every table, identifier and address. -/
def Obligations.FrameLengthAgreesWithSerialize : Prop :=
  ∀ (T : Optab) (i : Nat) (v : Word),
    (∀ f, serialize T i v = .ok f → frameLength T i = .ok f.bytes.length) ∧
    (∀ n, frameLength T i = .ok n → ∃ f, serialize T i v = .ok f ∧ f.bytes.length = n) ∧
    (∀ e, serialize T i v = .err e ↔ frameLength T i = .err e)

/-- R88: a frame is its opcode, or its opcode and the three address bytes, and nothing else; its first byte is an opcode
of the table and so never 0xFF. -/
def Obligations.AFrameHoldsNothingButOpcodeAndAddress : Prop :=
  ∀ (w : Nat) (reserved : List Byte) (T : Optab), T.Admissible w reserved →
    ∀ (i : Nat) (v : Word) (f : Frame), serialize T i v = .ok f →
      f.opcode ∈ T.map Row.opcode ∧ f.opcode ≠ 0xFF#8 ∧ f.bytes.length ≤ 4 ∧
      (f.bytes = [f.opcode] ∨
        f.bytes = [f.opcode, (encode24 v).b0, (encode24 v).b1, (encode24 v).b2])

/-- `serialize` is injective on Commands, for every admissible table (41_serializer.md, section 3): two commands give the
same frame exactly when they are the same variant at the same 24-bit address. -/
def Obligations.SerializeIsInjectiveOnCommands : Prop :=
  ∀ (w : Nat) (reserved : List Byte) (T : Optab), T.Admissible w reserved →
    ∀ r ∈ T, ∀ r' ∈ T, ∀ v v' : Word,
      serialize T r.id v = serialize T r'.id v' ↔ r = r' ∧ (r.shape = .addr24 → sameAddr24 v v')

/-- The port values of SER and FLEN in the three cases (41_serializer.md, section 3), over any table and any width of the
identifier ports. -/
def Obligations.SerializerPortValues : Prop :=
  ∀ (w : Nat) (T : Optab) (i : CmdId w) (v : Word),
    (T.byId i.toNat = none → serUnit T ⟨i, v⟩ = ⟨0, 0, 1⟩ ∧ flenUnit T ⟨i⟩ = ⟨0, 1⟩) ∧
    (∀ r, T.byId i.toNat = some r → r.shape = .noPayload →
      serUnit T ⟨i, v⟩ = ⟨r.opcode.zeroExtend 32, 1, 0⟩ ∧ flenUnit T ⟨i⟩ = ⟨1, 0⟩) ∧
    (∀ r, T.byId i.toNat = some r → r.shape = .addr24 →
      serUnit T ⟨i, v⟩ = ⟨((v &&& 0x00FFFFFF#32) <<< 8) ||| r.opcode.zeroExtend 32, 4, 0⟩ ∧ flenUnit T ⟨i⟩ = ⟨4, 0⟩)

/-- With the default table and CMD_ID_W = 4, the identifiers 9 to 15 are answered with UnsupportedCommand and nothing
else, whatever `ser_addr` is; the identifiers 0 to 8 are not (D5, D8). -/
def Obligations.IdentifiersPastTheTableAreUnsupported : Prop :=
  ∀ (i : CmdId) (v : Word),
    (9 ≤ i.toNat → serUnit OPTAB ⟨i, v⟩ = ⟨0, 0, 1⟩ ∧ flenUnit OPTAB ⟨i⟩ = ⟨0, 1⟩) ∧
    (i.toNat ≤ 8 → (serUnit OPTAB ⟨i, v⟩).err = 0 ∧ (flenUnit OPTAB ⟨i⟩).err = 0 ∧
      (serUnit OPTAB ⟨i, v⟩).len = (flenUnit OPTAB ⟨i⟩).len)

/-! ## The deserializer -/

/-- R94, R96, R97, R98: the whole of `deserialize`, over any table, byte and argument, with the outcomes R98 gives for a
row of shape Addr32 "were one admitted"; the worked examples on the default table. -/
def Obligations.DeserializeFollowsTheMatrix : Prop :=
  ∀ (T : Optab) (b : Byte) (v : Word),
    (∀ arg, T.byOpcode b = none → deserialize T b arg = .err .unknownOpcode) ∧
    (∀ r, T.byOpcode b = some r → r.shape = .noPayload →
      deserialize T b .absent = .ok ⟨r.id, none⟩ ∧
      deserialize T b (.a24 v) = .err .unexpectedAddress ∧
      deserialize T b (.a32 v) = .err .unexpectedAddress) ∧
    (∀ r, T.byOpcode b = some r → r.shape = .addr24 →
      deserialize T b .absent = .err .missingAddress ∧
      deserialize T b (.a24 v) = .ok ⟨r.id, some (v &&& 0x00FFFFFF#32)⟩ ∧
      deserialize T b (.a32 v) = .err .addressWidthMismatch) ∧
    (∀ r, T.byOpcode b = some r → r.shape = .addr32 →
      deserialize T b .absent = .err .missingAddress ∧
      deserialize T b (.a24 v) = .err .addressWidthMismatch ∧
      deserialize T b (.a32 v) = .ok ⟨r.id, some v⟩) ∧
    deserialize OPTAB 0x9F#8 .absent = .ok ⟨0, none⟩ ∧
    deserialize OPTAB 0x03#8 .absent = .err .missingAddress ∧
    deserialize OPTAB 0xFF#8 .absent = .err .unknownOpcode

/-- R121 to R125: each error kind arises under exactly its condition, for every admissible table, and the deserializer
never gives UnsupportedCommand; a reserved byte is UnknownOpcode; the rules' examples on the default table. -/
def Obligations.EachErrorArisesUnderExactlyItsCondition : Prop :=
  ∀ (w : Nat) (reserved : List Byte) (T : Optab), T.Admissible w reserved →
    (∀ i v e, serialize T i v = .err e ↔ e = .unsupportedCommand ∧ T.byId i = none) ∧
    (∀ i e, frameLength T i = .err e ↔ e = .unsupportedCommand ∧ T.byId i = none) ∧
    (∀ b ∈ reserved, ∀ arg, deserialize T b arg = .err .unknownOpcode) ∧
    deserialize OPTAB 0xFF#8 .absent = .err .unknownOpcode ∧
    deserialize OPTAB 0x03#8 .absent = .err .missingAddress ∧
    deserialize OPTAB 0x9F#8 (.a24 0x00000000#32) = .err .unexpectedAddress ∧
    deserialize OPTAB 0x03#8 (.a32 0x00000100#32) = .err .addressWidthMismatch ∧
    ∀ b arg,
      deserialize T b arg ≠ .err .unsupportedCommand ∧
      (deserialize T b arg = .err .unknownOpcode ↔ T.byOpcode b = none) ∧
      (deserialize T b arg = .err .missingAddress ↔
        ∃ r, T.byOpcode b = some r ∧ r.shape = .addr24 ∧ arg = .absent) ∧
      (deserialize T b arg = .err .unexpectedAddress ↔
        ∃ r, T.byOpcode b = some r ∧ r.shape = .noPayload ∧ ((∃ v, arg = .a24 v) ∨ ∃ v, arg = .a32 v)) ∧
      (deserialize T b arg = .err .addressWidthMismatch ↔
        ∃ r, T.byOpcode b = some r ∧ r.shape = .addr24 ∧ ∃ v, arg = .a32 v)

/-- An Address32 argument never gives a command, and its value is never read (42_deserializer.md), for every admissible
table. -/
def Obligations.An32BitArgumentNeverGivesACommand : Prop :=
  ∀ (w : Nat) (reserved : List Byte) (T : Optab), T.Admissible w reserved →
    ∀ (b : Byte) (v v' : Word),
      (∀ c, deserialize T b (.a32 v) ≠ .ok c) ∧ deserialize T b (.a32 v) = deserialize T b (.a32 v')

/-- The round trips of 42_deserializer.md, for every admissible table: opcode byte and address value; opcode byte alone;
the converse; and the four-byte form through `decode24`. -/
def Obligations.DeserializeUndoesSerialize : Prop :=
  ∀ (w : Nat) (reserved : List Byte) (T : Optab), T.Admissible w reserved →
    (∀ r ∈ T, r.shape = .noPayload → ∀ v, ∃ f, serialize T r.id v = .ok f ∧
      deserialize T f.opcode .absent = .ok ⟨r.id, none⟩) ∧
    (∀ r ∈ T, r.shape = .addr24 → ∀ v, ∃ op a, serialize T r.id v = .ok (.a24 op a) ∧
      deserialize T op (.a24 v) = .ok ⟨r.id, some (canon24 v)⟩ ∧
      deserialize T op (.a24 (decode24 a)) = .ok ⟨r.id, some (canon24 v)⟩ ∧
      sameCommand ⟨r.id, some (canon24 v)⟩ ⟨r.id, some v⟩) ∧
    (∀ b arg c, deserialize T b arg = .ok c → ∃ f, serializeCommand T c = .ok f ∧ f.opcode = b)

/-- The port values of DES in the six cases (42_deserializer.md), over any table and any width of the identifier ports (an
identifier too large for the ports is cut to their width, assumption 9; R56 f rules it out). -/
def Obligations.DeserializerPortValues : Prop :=
  ∀ (w : Nat) (T : Optab) (op : Byte) (present is32 : Bool) (v : Word),
    (T.byOpcode op = none → (desUnit T ⟨op, present, is32, v⟩ : DesOut w) = ⟨2, 0, 0⟩) ∧
    (∀ r, T.byOpcode op = some r → r.shape = .noPayload →
      (desUnit T ⟨op, false, is32, v⟩ : DesOut w) = ⟨0, BitVec.ofNat w r.id, 0⟩ ∧
      (desUnit T ⟨op, true, is32, v⟩ : DesOut w) = ⟨4, 0, 0⟩) ∧
    (∀ r, T.byOpcode op = some r → r.shape = .addr24 →
      (desUnit T ⟨op, false, is32, v⟩ : DesOut w) = ⟨3, 0, 0⟩ ∧
      (desUnit T ⟨op, true, false, v⟩ : DesOut w) = ⟨0, BitVec.ofNat w r.id, (v.extractLsb' 0 24).zeroExtend 32⟩ ∧
      (desUnit T ⟨op, true, true, v⟩ : DesOut w) = ⟨5, 0, 0⟩)

/-- The error codes at the ports (D9): SER and FLEN give 0 or 1, DES gives 0 or 2 to 5, for every admissible table and
every input; 6 and 7 are never produced; and on an error every companion output is zero (D12). -/
def Obligations.PortErrorCodesAndZeroCompanions : Prop :=
  ∀ (w : Nat) (reserved : List Byte) (T : Optab), T.Admissible w reserved →
    (∀ p : SerIn w,
      ((serUnit T p).err = 0 ∧ ((serUnit T p).len = 1 ∨ (serUnit T p).len = 4)) ∨ serUnit T p = ⟨0, 0, 1⟩) ∧
    (∀ p : FlenIn w,
      ((flenUnit T p).err = 0 ∧ ((flenUnit T p).len = 1 ∨ (flenUnit T p).len = 4)) ∨ flenUnit T p = ⟨0, 1⟩) ∧
    (∀ p : DesIn, (desUnit T p : DesOut w).err = 0 ∨
      ∃ e : BitVec 3, 2 ≤ e.toNat ∧ e.toNat ≤ 5 ∧ (desUnit T p : DesOut w) = ⟨e, 0, 0⟩)

/-- The ignored inputs (R25, R28): with no address present DES reads neither `des_addr_is32` nor `des_addr`; with an A24
argument it ignores `des_addr[31:24]`; SER ignores `ser_addr[31:24]`, and all of `ser_addr` where it answers a frame of
length 1 or an error. -/
def Obligations.IgnoredInputsChangeNoOutput : Prop :=
  ∀ (w : Nat) (reserved : List Byte) (T : Optab), T.Admissible w reserved →
    (∀ op is32 is32' v v', (desUnit T ⟨op, false, is32, v⟩ : DesOut w) = desUnit T ⟨op, false, is32', v'⟩) ∧
    (∀ op v v', sameAddr24 v v' → (desUnit T ⟨op, true, false, v⟩ : DesOut w) = desUnit T ⟨op, true, false, v'⟩) ∧
    (∀ (i : CmdId w) v v', sameAddr24 v v' → serUnit T ⟨i, v⟩ = serUnit T ⟨i, v'⟩) ∧
    (∀ (i : CmdId w) v v', (serUnit T ⟨i, v⟩).len ≠ 4 → serUnit T ⟨i, v⟩ = serUnit T ⟨i, v'⟩)

/-! ## The commands, one by one -/

/-- R110, whole. -/
def Obligations.ReadJEDECIDIsSpelled9F : Prop :=
  (∀ v, serialize OPTAB 0 v = .ok (.np 0x9F#8)) ∧ frameLength OPTAB 0 = .ok 1 ∧
  deserialize OPTAB 0x9F#8 .absent = .ok ⟨0, none⟩ ∧
  (∀ v, deserialize OPTAB 0x9F#8 (.a24 v) = .err .unexpectedAddress) ∧
  (∀ v, deserialize OPTAB 0x9F#8 (.a32 v) = .err .unexpectedAddress) ∧
  (∀ v, serUnit OPTAB (⟨0, v⟩ : SerIn) = ⟨0x0000009F#32, 1, 0⟩) ∧
  (∀ is32 v, (desUnit OPTAB ⟨0x9F#8, false, is32, v⟩ : DesOut) = ⟨0, 0, 0⟩)

/-- R113, whole, with its worked example and corner cases. -/
def Obligations.ReadDataIsSpelled03 : Prop :=
  (∀ v, serialize OPTAB 3 v = .ok (.a24 0x03#8 ⟨byteAt v 0, byteAt v 1, byteAt v 2⟩)) ∧ frameLength OPTAB 3 = .ok 4 ∧
  deserialize OPTAB 0x03#8 .absent = .err .missingAddress ∧
  (∀ v, deserialize OPTAB 0x03#8 (.a24 v) = .ok ⟨3, some (v &&& 0x00FFFFFF#32)⟩) ∧
  (∀ v, deserialize OPTAB 0x03#8 (.a32 v) = .err .addressWidthMismatch) ∧
  (∀ v, serUnit OPTAB (⟨3, v⟩ : SerIn) = ⟨((v &&& 0x00FFFFFF#32) <<< 8) ||| 0x03#32, 4, 0⟩) ∧
  serialize OPTAB 3 0x00000000#32 = .ok (.a24 0x03#8 ⟨0x00#8, 0x00#8, 0x00#8⟩) ∧
  serialize OPTAB 3 0x00FFFFFF#32 = .ok (.a24 0x03#8 ⟨0xFF#8, 0xFF#8, 0xFF#8⟩) ∧
  serialize OPTAB 3 0x00000100#32 = .ok (.a24 0x03#8 ⟨0x00#8, 0x01#8, 0x00#8⟩) ∧
  serialize OPTAB 3 0xFF000100#32 = serialize OPTAB 3 0x00000100#32 ∧
  serUnit OPTAB (⟨3, 0x00000100#32⟩ : SerIn) = ⟨0x00010003#32, 4, 0⟩

/-- R114, whole, with its worked example. -/
def Obligations.PageProgramIsSpelled02 : Prop :=
  (∀ v, serialize OPTAB 4 v = .ok (.a24 0x02#8 ⟨byteAt v 0, byteAt v 1, byteAt v 2⟩)) ∧ frameLength OPTAB 4 = .ok 4 ∧
  deserialize OPTAB 0x02#8 .absent = .err .missingAddress ∧
  (∀ v, deserialize OPTAB 0x02#8 (.a24 v) = .ok ⟨4, some (v &&& 0x00FFFFFF#32)⟩) ∧
  (∀ v, deserialize OPTAB 0x02#8 (.a32 v) = .err .addressWidthMismatch) ∧
  (∀ v, serUnit OPTAB (⟨4, v⟩ : SerIn) = ⟨((v &&& 0x00FFFFFF#32) <<< 8) ||| 0x02#32, 4, 0⟩) ∧
  serialize OPTAB 4 0x00ABCDEF#32 = .ok (.a24 0x02#8 ⟨0xEF#8, 0xCD#8, 0xAB#8⟩) ∧
  serUnit OPTAB (⟨4, 0x00ABCDEF#32⟩ : SerIn) = ⟨0xABCDEF02#32, 4, 0⟩

/-- WriteEnable and Reset (43_commands_no_payload.md), for every admissible choice of the opcode parameters, so that no default
the source does not give is rested on. -/
def Obligations.WriteEnableAndResetAreSpelledByTheirOpcodes : Prop :=
  ∀ (reserved : List Byte) (o : Opcodes), o.Admissible reserved →
    ∀ p ∈ [(1, o.writeEnable), (2, o.reset)],
      (∀ v, serialize (optabOf o) p.1 v = .ok (.np p.2)) ∧ frameLength (optabOf o) p.1 = .ok 1 ∧
      deserialize (optabOf o) p.2 .absent = .ok ⟨p.1, none⟩ ∧
      (∀ v, deserialize (optabOf o) p.2 (.a24 v) = .err .unexpectedAddress) ∧
      (∀ v, deserialize (optabOf o) p.2 (.a32 v) = .err .unexpectedAddress)

/-- FastRead, the Dual and Quad reads and ReadSFDPRegister (44_commands_address_carrying.md), for every admissible choice of the
opcode parameters, so that no default the source does not give is rested on. -/
def Obligations.FastReadsAndReadSFDPRegisterAreSpelledByTheirOpcodes : Prop :=
  ∀ (reserved : List Byte) (o : Opcodes), o.Admissible reserved →
    ∀ p ∈ [(5, o.fastRead), (6, o.fastReadDualOutput), (7, o.fastReadQuadOutput), (8, o.readSFDPRegister)],
      (∀ v, serialize (optabOf o) p.1 v = .ok (.a24 p.2 ⟨byteAt v 0, byteAt v 1, byteAt v 2⟩)) ∧
      frameLength (optabOf o) p.1 = .ok 4 ∧
      deserialize (optabOf o) p.2 .absent = .err .missingAddress ∧
      (∀ v, deserialize (optabOf o) p.2 (.a24 v) = .ok ⟨p.1, some (v &&& 0x00FFFFFF#32)⟩) ∧
      (∀ v, deserialize (optabOf o) p.2 (.a32 v) = .err .addressWidthMismatch)

/-! ## Running commands on the machine -/

/-- Every no-payload command completes from every state, with its result and its frame. That running a command means
`serialize` and `frame_length` is the model's choice (assumption 5), and so is that `ser_addr`, which SER ignores here, keeps
its value (assumption 7). -/
def Obligations.NoPayloadCommandsComplete : Prop :=
  NoPayloadCompletes .readJEDECID ID_READ_JEDEC_ID OPC_READ_JEDEC_ID ∧
  NoPayloadCompletes .writeEnable ID_WRITE_ENABLE OPC_WRITE_ENABLE ∧
  NoPayloadCompletes .reset ID_RESET OPC_RESET

/-- Every address-carrying command completes from every state at every stored address word, with its result and its
frame. That running a command means `serialize` and `frame_length` is the model's choice (assumption 5). -/
def Obligations.AddressCarryingCommandsComplete : Prop :=
  Addr24Completes .readData ID_READ_DATA OPC_READ_DATA ∧
  Addr24Completes .pageProgram ID_PAGE_PROGRAM OPC_PAGE_PROGRAM ∧
  Addr24Completes .fastRead ID_FAST_READ OPC_FAST_READ ∧
  Addr24Completes .fastReadDualOutput ID_FAST_READ_DUAL_OUTPUT OPC_FAST_READ_DUAL_OUTPUT ∧
  Addr24Completes .fastReadQuadOutput ID_FAST_READ_QUAD_OUTPUT OPC_FAST_READ_QUAD_OUTPUT ∧
  Addr24Completes .readSFDPRegister ID_READ_SFDP_REGISTER OPC_READ_SFDP_REGISTER

/-- There is no write-enable latch (R111, R146): PageProgram gives the same outputs after WriteEnable, after Reset and
without either. -/
def Obligations.PageProgramNeedsNoWriteEnable : Prop :=
  ∀ (s : State) (v : Word), ∃ e r t te tr : State,
    exec .writeEnable s = .next e ∧ exec .reset s = .next r ∧
    exec (.pageProgram v) s = .next t ∧ exec (.pageProgram v) e = .next te ∧ exec (.pageProgram v) r = .next tr ∧
    te.serOut = t.serOut ∧ tr.serOut = t.serOut ∧ te.flenOut = t.flenOut ∧ tr.flenOut = t.flenOut

/-- Every Command of every admissible table completes from every state, at any width of the identifier ports: it is serialized
without an error, SER and FLEN answer its frame and its length, and nothing but their ports and the answers changes. That
running a command means `serialize` and `frame_length` is the model's choice (assumption 5), and so is that `ser_addr` keeps
its value where the command carries no address (assumption 7). -/
def Obligations.CommandsOfAnyTableComplete : Prop :=
  ∀ (w : Nat) (reserved : List Byte) (T : Optab), T.Admissible w reserved →
    ∀ (c : Command), c.OfTable T → ∀ s : State w Command, ∃ (t : State w Command) (f : Frame),
      execCommand T c s = .next t ∧
      serializeCommand T c = .ok f ∧ f.opcode ∈ T.map Row.opcode ∧
      t.ser = ⟨BitVec.ofNat w c.id, c.addr.getD s.ser.addr⟩ ∧ t.flen = ⟨BitVec.ofNat w c.id⟩ ∧
      t.serOut T = ⟨f.word, f.len, 0⟩ ∧ t.flenOut T = ⟨f.len, 0⟩ ∧
      t.replies = s.replies ++ [.ser ⟨f.word, f.len, 0⟩, .flen ⟨f.len, 0⟩] ∧
      State.OnlySerFlenDriven s t

/-- Two commands have the same frame exactly when they are equal under R34, for every admissible choice of the opcode
parameters. -/
def Obligations.CommandsShareBytesExactlyWhenEqual : Prop :=
  ∀ (reserved : List Byte) (o : Opcodes), o.Admissible reserved →
    ∀ i j : Instr, encode i o = encode j o ↔ sameInstr i j

/-! ## Encoding -/

/-- A few words, written out from the table's encodings, decode to their commands. The bytes of FastRead and WriteEnable
are defaults (assumption 3). -/
def Obligations.TableWordsDecodeToTheirCommands : Prop :=
  decode [0b10011111#8] = .command .readJEDECID [] ∧
  decode [0b00000110#8] = .command .writeEnable [] ∧
  decode [0b00000011#8, 0b00000000#8, 0b00000001#8, 0b00000000#8] = .command (.readData 0x000100) [] ∧
  decode [0b00000010#8, 0b11101111#8, 0b11001101#8, 0b10101011#8] = .command (.pageProgram 0xABCDEF) [] ∧
  decode [0b00001011#8, 0b01010110#8, 0b00110100#8, 0b00010010#8] = .command (.fastRead 0x123456) []

/-- Decoding the bytes of any command, followed by anything, gives it back in canonical form and leaves what follows; a
well-formed command is given back as it is. For every admissible choice of the opcode parameters. -/
def Obligations.DecodeUndoesEncode : Prop :=
  ∀ (reserved : List Byte) (o : Opcodes), o.Admissible reserved → ∀ (i : Instr) (rest : List Byte),
    decode (encode i o ++ rest) o = .command (canonInstr i) rest ∧
    (i.wf = true → decode (encode i o ++ rest) o = .command i rest)

/-- Each byte list has at most one meaning: what the decoder reads is well-formed and is spelled by exactly the bytes it
consumed, one or four of them. For every choice of the opcode parameters. -/
def Obligations.EncodeUndoesDecode : Prop :=
  ∀ (o : Opcodes) (bs : List Byte) (i : Instr) (rest : List Byte), decode bs o = .command i rest →
    i.wf = true ∧ bs = encode i o ++ rest ∧ ((encode i o).length = 1 ∨ (encode i o).length = 4)

/-- Decode and encode agree over every admissible opcode table: a Command of the table has bytes, which decode to it in
canonical form and leave what follows; and what decodes is a Command of the table, spelled by exactly the one or four bytes
consumed. -/
def Obligations.DecodeAndEncodeAgreeOverAnyTable : Prop :=
  ∀ (w : Nat) (reserved : List Byte) (T : Optab), T.Admissible w reserved →
    (∀ c : Command, c.OfTable T → ∃ bs, encodeCommand T c = some bs ∧
      ∀ rest, decodeCommand T (bs ++ rest) = .command (canonCommand c) rest) ∧
    (∀ bs c rest, decodeCommand T bs = .command c rest →
      c.OfTable T ∧ canonCommand c = c ∧
      ∃ es, encodeCommand T c = some es ∧ bs = es ++ rest ∧ (es.length = 1 ∨ es.length = 4))

/-- The frame of a command is spelled by exactly one row of spec/opcode_table.json, the row of its mnemonic (R67, R63), for
every admissible choice of the opcode parameters that the table's rows name. -/
def Obligations.AFrameIsSpelledByExactlyItsTableRow : Prop :=
  ∀ (reserved : List Byte) (o : Opcodes), o.Admissible reserved →
    ∀ (i : Instr) (f : Frame), serializeCommand (optabOf o) (commandOf i) = .ok f →
      ∀ row ∈ encodingTable o, row.spells f = true ↔ row.mnemonic = mnemonicOf i

/-- The serializer, which looks OPTAB up, and the encoder, which is written from the frame formats, spell every command
alike, for every choice of the opcode parameters. -/
def Obligations.SerializerSpellsWhatTheEncoderSpells : Prop :=
  ∀ (o : Opcodes) (i : Instr), ∃ f, serializeCommand (optabOf o) (commandOf i) = .ok f ∧ f.bytes = encode i o ∧
    frameLength (optabOf o) (commandOf i).id = .ok (encode i o).length

/-- The deserializer, which looks OPTAB up, and the decoder, which is written from the frame formats, read every frame
alike, for every admissible choice of the opcode parameters. -/
def Obligations.DeserializerReadsWhatTheDecoderReads : Prop :=
  ∀ (reserved : List Byte) (o : Opcodes), o.Admissible reserved → ∀ (f : Frame) (i : Instr),
    deserialize (optabOf o) f.opcode (argOfFrame f) = .ok (commandOf i) ↔ decode f.bytes o = .command i []

/-- Reading the text of a command gives it back in canonical form (R65). The number of digits written is the model's
choice (assumption 17). -/
def Obligations.ReadingTheTextOfACommandGivesItBack : Prop :=
  ∀ (i : Instr) (rest : List Char), (∀ c ∈ rest.head?, isNameChar c = false) →
    readCommand (commandText i ++ rest) = some (canonInstr i, rest)

/-! ## The step -/

/-- A step on a pending command `i` is `exec i`, after it was taken from the queue; a step on a received frame that decodes to
`i` is `exec i`, after the frame was taken from the queue and given to the deserializer. That a pending command is run so
(assumption 5) and that a received frame goes this way and its command is then run (assumption 6) is the model's choice. -/
def Obligations.StepRunsTheDecodedCommand : Prop :=
  ∀ (s : State) (q : List Invocation) (i : Instr),
    step (s.setPending (.command i :: q)) = exec i (s.setPending q) ∧
    ∀ f : Frame, decode f.bytes = .command i [] →
      step (s.setPending (.received f :: q)) = exec i (receiveFrame f (s.setPending q))

/-- The same of the machine at any admissible opcode table, and any width of the identifier ports. The step is the model's
choice (assumptions 5 and 6). -/
def Obligations.StepRunsTheDecodedCommandOfAnyTable : Prop :=
  ∀ (w : Nat) (reserved : List Byte) (T : Optab), T.Admissible w reserved →
    ∀ (s : State w Command) (q : List (Invocation w Command)) (c : Command),
      stepOf T (s.setPending (.command c :: q)) = execCommand T c (s.setPending q) ∧
      ∀ f : Frame, decodeCommand T f.bytes = .command c [] →
        stepOf T (s.setPending (.received f :: q)) = execCommand T c (receiveFrame f (s.setPending q) T)

/-- The machine is the machine of any table at the defaults of the parameters: a step of the one is a step of the other, with
the instructions written as Commands. -/
def Obligations.TheMachineIsTheAnyTableMachineAtTheDefaults : Prop :=
  ∀ s : State, ∃ t : State, step s = .next t ∧ stepOf OPTAB s.paired = .next t.paired

/-- What giving a received frame to the deserializer does: the extractor and DES are driven with the frame's bytes, their
answers are given, and nothing else changes. That a received frame goes this way is the model's choice (assumption 6), and so
is that `des_addr_is32` and `des_addr`, which DES ignores on a one-byte frame, keep their values (assumption 7). -/
def Obligations.ReceivingAFrameDrivesOnlyExtractorAndDeserializer : Prop :=
  (∀ (s : State) (op : Byte),
    (receiveFrame (.np op) s).ser = s.ser ∧ (receiveFrame (.np op) s).flen = s.flen ∧
    (receiveFrame (.np op) s).aenc = s.aenc ∧ (receiveFrame (.np op) s).pending = s.pending ∧
    (receiveFrame (.np op) s).des = ⟨op, false, s.des.addrIs32, s.des.addr⟩ ∧
    (receiveFrame (.np op) s).replies = s.replies ++ [.des (desOutOf (deserialize OPTAB op .absent))]) ∧
  (∀ (s : State) (op : Byte) (a : Bytes3),
    (receiveFrame (.a24 op a) s).ser = s.ser ∧ (receiveFrame (.a24 op a) s).flen = s.flen ∧
    (receiveFrame (.a24 op a) s).aenc = { s.aenc with x24Bytes := a.b2 ++ (a.b1 ++ a.b0) } ∧
    (receiveFrame (.a24 op a) s).pending = s.pending ∧
    (receiveFrame (.a24 op a) s).des = ⟨op, true, false, decode24 a⟩ ∧
    (receiveFrame (.a24 op a) s).replies =
      s.replies ++ [.x24Addr (decode24 a), .des (desOutOf (deserialize OPTAB op (.a24 (decode24 a))))])

/-- A step on a word placed for the fetch runs the command the decoder reads from it. The block fetches nothing: how the word
is placed, as a received frame (assumption 11), and that the frame's command is run (assumption 6), is the model's choice. -/
def Obligations.StepRunsThePlacedWord : Prop :=
  ∀ (s : State) (nbits w : Nat) (i : Instr), decodeTableWord nbits w = some i →
    step (s.withFetchWord nbits w) = exec i (receiveFrame (frameOfWord (tableWord nbits w)) s)

/-- A step on a received frame that deserializes to an error answers the error, after the address extractor's answer where the
frame has address bytes, and changes nothing but the ports of AENC's extractor and DES: no command is run, and neither SER nor
FLEN answers. That a received frame goes this way is the model's choice (assumption 6). -/
def Obligations.ABadFrameIsAnsweredAndRunsNothing : Prop :=
  ∀ (s : State) (f : Frame) (q : List Invocation) (e : Error),
    deserialize OPTAB f.opcode (argOfFrame f) = .err e →
    ∃ t, step (s.setPending (.received f :: q)) = .next t ∧
      t.ser = s.ser ∧ t.flen = s.flen ∧ t.pending = q ∧
      t.aenc.a24In = s.aenc.a24In ∧ t.aenc.a32In = s.aenc.a32In ∧ t.aenc.x32Bytes = s.aenc.x32Bytes ∧
      t.desOut = ⟨errorCode e, 0, 0⟩ ∧
      match f with
      | .np _ => t.aenc = s.aenc ∧ t.replies = s.replies ++ [.des ⟨errorCode e, 0, 0⟩]
      | .a24 _ a => t.aenc.x24Bytes = packBytes3 a ∧
          t.replies = s.replies ++ [.x24Addr (decode24 a), .des ⟨errorCode e, 0, 0⟩]

/-- Every port invocation completes, drives its own unit alone with the values asked for, and answers that unit's output,
the value-level function of those values. -/
def Obligations.PortInvocationsDriveOnlyTheirUnit : Prop :=
  ∀ (s : State) (q : List Invocation) (r : PortRequest), ∃ t, step (s.setPending (.port r :: q)) = .next t ∧
    t.pending = q ∧ t.replies = s.replies ++ [portAnswer r] ∧
    match r with
    | .serialize i v => t.ser = ⟨i, v⟩ ∧ t.flen = s.flen ∧ t.aenc = s.aenc ∧ t.des = s.des
    | .frameLength i => t.ser = s.ser ∧ t.flen = ⟨i⟩ ∧ t.aenc = s.aenc ∧ t.des = s.des
    | .encode24 v => t.ser = s.ser ∧ t.flen = s.flen ∧ t.aenc = { s.aenc with a24In := v } ∧ t.des = s.des
    | .encode32 v => t.ser = s.ser ∧ t.flen = s.flen ∧ t.aenc = { s.aenc with a32In := v } ∧ t.des = s.des
    | .decode24 b => t.ser = s.ser ∧ t.flen = s.flen ∧ t.aenc = { s.aenc with x24Bytes := b } ∧ t.des = s.des
    | .decode32 b => t.ser = s.ser ∧ t.flen = s.flen ∧ t.aenc = { s.aenc with x32Bytes := b } ∧ t.des = s.des
    | .deserialize op p w v => t.ser = s.ser ∧ t.flen = s.flen ∧ t.aenc = s.aenc ∧ t.des = ⟨op, p, w, v⟩

/-- The block never starts anything: with nothing pending a step changes nothing; and whatever is pending, a step
completes. -/
def Obligations.EveryStepCompletes : Prop :=
  (∀ s : State, step (s.setPending []) = .next (s.setPending [])) ∧ ∀ s : State, ∃ t, step s = .next t

/-- The answers to an invocation depend on that invocation alone (R13): not on what the ports hold, what was answered
before or what is still pending. -/
def Obligations.AnswersDependOnTheInvocationAlone : Prop :=
  ∀ (s s' : State) (inv : Invocation) (q q' : List Invocation), ∃ t t' answers,
    step (s.setPending (inv :: q)) = .next t ∧ step (s'.setPending (inv :: q')) = .next t' ∧
    t.replies = s.replies ++ answers ∧ t'.replies = s'.replies ++ answers ∧ t.pending = q ∧ t'.pending = q'

/-- A whole run (R13, R47): from every state, as many steps as there are pending invocations make every one of them and
no other, and answer each exactly as the value-level functions of its own inputs say. Which functions a command and a received
frame are put to is the model's choice (assumptions 5 and 6). -/
def Obligations.ARunAnswersEachInvocationAsIfAlone : Prop :=
  ∀ s : State, ∃ t, Host.Core.run core s.pending.length s = .next t ∧
    t.pending = [] ∧ t.replies = s.replies ++ s.pending.flatMap answersOf

/-- The same of the machine at any admissible opcode table and any width of the identifier ports, where every pending pair is
a Command of the table. Which functions a command and a received frame are put to is the model's choice (assumptions 5
and 6). -/
def Obligations.ARunOverAnyTableAnswersEachInvocationAsIfAlone : Prop :=
  ∀ (w : Nat) (reserved : List Byte) (T : Optab), T.Admissible w reserved →
    ∀ s : State w Command, (∀ c, Invocation.command c ∈ s.pending → c.OfTable T) →
      ∃ t : State w Command, Host.Core.run (coreOf w T) s.pending.length s = .next t ∧
        t.pending = [] ∧ t.replies = s.replies ++ s.pending.flatMap (answersWith T id)

/-- Every step keeps every answer sane: a frame of length 1 or 4 that begins with an opcode of the table, a canonical
address, and on an error the code and nothing else. -/
def Obligations.EveryStepKeepsAnswersSane : Prop :=
  ∀ s t : State, s.Sane → step s = .next t → t.Sane

/-- Every step of the machine at any admissible opcode table and any width of the identifier ports keeps every answer sane,
whatever pairs are pending. -/
def Obligations.EveryStepOverAnyTableKeepsAnswersSane : Prop :=
  ∀ (w : Nat) (reserved : List Byte) (T : Optab), T.Admissible w reserved →
    ∀ s t : State w Command, s.Sane T → stepOf T s = .next t → t.Sane T

/-- After reset nothing was answered and nothing is pending, so a step changes nothing. The input ports are zero, the
model's choice (assumption 2), and the outputs are what the units answer to zeros: no output is reset, none is stored. -/
def Obligations.ResetIsSaneAndIdle : Prop :=
  State.reset.Sane ∧ State.reset.pending = [] ∧ State.reset.replies = [] ∧ step State.reset = .next State.reset ∧
  State.reset.ser = ⟨0, 0⟩ ∧ State.reset.flen = ⟨0⟩ ∧ State.reset.aenc = ⟨0, 0, 0, 0⟩ ∧
  State.reset.des = ⟨0, false, false, 0⟩ ∧
  State.reset.serOut = ⟨0x0000009F#32, 1, 0⟩ ∧ State.reset.flenOut = ⟨1, 0⟩ ∧
  State.reset.aencOut = ⟨0, 0, 0, 0⟩ ∧ State.reset.desOut = ⟨2, 0, 0⟩
end

