-- ==== Sys2Proof/Laws/Operands.lean ====
section
/-! SUPPORT. Lemmas on the operands: bytes on the ports and back, and the canonical stored word of an Address24. -/

namespace Sys2Proof.Machine

/-- Three bytes survive the AENC ports. -/
@[simp] theorem unpackBytes3_packBytes3 (b : Bytes3) : unpackBytes3 (packBytes3 b) = b := by
  obtain ⟨b0, b1, b2⟩ := b
  simp only [unpackBytes3, packBytes3, Bytes3.mk.injEq]
  refine ⟨?_, ?_, ?_⟩ <;> (ext i hi; simp; try grind)

/-- Four bytes survive the AENC ports. -/
@[simp] theorem unpackBytes4_packBytes4 (b : Bytes4) : unpackBytes4 (packBytes4 b) = b := by
  obtain ⟨b0, b1, b2, b3⟩ := b
  simp only [unpackBytes4, packBytes4, byteAt, Bytes4.mk.injEq]
  refine ⟨?_, ?_, ?_, ?_⟩ <;> (ext i hi; simp; try grind)

/-- Bit `i` of a stored word in canonical form is the word's own below bit 24 and zero from there on (R18). -/
theorem canon24_getElem (v : Word) (i : Nat) (hi : i < 32) : (canon24 v)[i] = (v[i] && decide (i < 24)) := by
  have mask : ∀ j : Fin 32, (0x00FFFFFF#32).getLsbD j.val = decide (j.val < 24) := by decide
  simp [canon24, ← BitVec.getLsbD_eq_getElem, mask ⟨i, hi⟩]

/-- The extractor on the encoder's bytes gives the canonical stored word. -/
theorem wordOfBytes3_byteAt (v : Word) : wordOfBytes3 ⟨byteAt v 0, byteAt v 1, byteAt v 2⟩ = canon24 v := by
  ext i hi
  rw [canon24_getElem v i hi]
  simp only [wordOfBytes3, byteAt]
  grind

/-- Taking the canonical form twice is taking it once. -/
@[simp] theorem canon24_canon24 (v : Word) : canon24 (canon24 v) = canon24 v := by
  ext i hi
  simp only [canon24_getElem _ i hi]
  grind

/-- The deserializer's address is in canonical stored form (R99). -/
@[simp] theorem canonicalAddr_canon24 (v : Word) : canonicalAddr (canon24 v) = true := by
  simp only [canonicalAddr, beq_iff_eq]
  ext i hi
  have h : (canon24 v).getLsbD (24 + i) = false := by
    rw [BitVec.getLsbD_eq_getElem (by omega), canon24_getElem v _ (by omega)]
    simp
  simpa using h

/-- A canonical stored word is its own canonical form. -/
theorem canon24_of_canonicalAddr {v : Word} (h : canonicalAddr v = true) : canon24 v = v := by
  simp only [canonicalAddr, beq_iff_eq] at h
  ext i hi
  rw [canon24_getElem v i hi]
  have h' : ∀ j < 8, v.getLsbD (24 + j) = false := by
    intro j hj
    have := congrArg (fun b : BitVec 8 => b.getLsbD j) h
    simpa [hj] using this
  by_cases hlt : i < 24
  · simp [hlt]
  · have := h' (i - 24) (by omega)
    rw [show 24 + (i - 24) = i by omega, BitVec.getLsbD_eq_getElem hi] at this
    simp [hlt, this]

/-- A command with an address read from three bytes is in canonical form. -/
@[simp] theorem canonicalAddr_wordOfBytes3 (b : Bytes3) : canonicalAddr (wordOfBytes3 b) = true := by
  simp only [canonicalAddr, beq_iff_eq]
  ext i hi
  simp only [wordOfBytes3, BitVec.getElem_extractLsb', BitVec.getLsbD_append]
  grind

/-- A well-formed command is its own canonical form (R34). -/
theorem canonInstr_of_wf {i : Instr} (h : i.wf = true) : canonInstr i = i := by
  cases i <;> first | rfl | simp [canonInstr, canon24_of_canonicalAddr h]

/-- The canonical form of a command is well-formed. -/
@[simp] theorem wf_canonInstr (i : Instr) : (canonInstr i).wf = true := by
  cases i <;> simp [canonInstr, Instr.wf]

end Sys2Proof.Machine
end

