-- ==== Sys2Proof/Laws/State.lean ====
section
/-! SUPPORT. One lemma per field per named update of the state, and what the updates leave of the output ports, so that no
later proof unfolds a record update. -/

namespace Sys2Proof.Machine

variable {w : Nat} {I : Type}

section setSer
variable (s : State w I) (p : SerIn w) (T : Optab)

@[simp] theorem State.setSer_ser : (s.setSer p).ser = p := rfl
@[simp] theorem State.setSer_flen : (s.setSer p).flen = s.flen := rfl
@[simp] theorem State.setSer_aenc : (s.setSer p).aenc = s.aenc := rfl
@[simp] theorem State.setSer_des : (s.setSer p).des = s.des := rfl
@[simp] theorem State.setSer_pending : (s.setSer p).pending = s.pending := rfl
@[simp] theorem State.setSer_replies : (s.setSer p).replies = s.replies := rfl
@[simp] theorem State.setSer_serOut : (s.setSer p).serOut T = serUnit T p := rfl
@[simp] theorem State.setSer_flenOut : (s.setSer p).flenOut T = s.flenOut T := rfl
@[simp] theorem State.setSer_aencOut : (s.setSer p).aencOut = s.aencOut := rfl
@[simp] theorem State.setSer_desOut : (s.setSer p).desOut T = s.desOut T := rfl

end setSer

section setFlen
variable (s : State w I) (p : FlenIn w) (T : Optab)

@[simp] theorem State.setFlen_ser : (s.setFlen p).ser = s.ser := rfl
@[simp] theorem State.setFlen_flen : (s.setFlen p).flen = p := rfl
@[simp] theorem State.setFlen_aenc : (s.setFlen p).aenc = s.aenc := rfl
@[simp] theorem State.setFlen_des : (s.setFlen p).des = s.des := rfl
@[simp] theorem State.setFlen_pending : (s.setFlen p).pending = s.pending := rfl
@[simp] theorem State.setFlen_replies : (s.setFlen p).replies = s.replies := rfl
@[simp] theorem State.setFlen_serOut : (s.setFlen p).serOut T = s.serOut T := rfl
@[simp] theorem State.setFlen_flenOut : (s.setFlen p).flenOut T = flenUnit T p := rfl
@[simp] theorem State.setFlen_aencOut : (s.setFlen p).aencOut = s.aencOut := rfl
@[simp] theorem State.setFlen_desOut : (s.setFlen p).desOut T = s.desOut T := rfl

end setFlen

section setAenc
variable (s : State w I) (p : AencIn) (T : Optab)

@[simp] theorem State.setAenc_ser : (s.setAenc p).ser = s.ser := rfl
@[simp] theorem State.setAenc_flen : (s.setAenc p).flen = s.flen := rfl
@[simp] theorem State.setAenc_aenc : (s.setAenc p).aenc = p := rfl
@[simp] theorem State.setAenc_des : (s.setAenc p).des = s.des := rfl
@[simp] theorem State.setAenc_pending : (s.setAenc p).pending = s.pending := rfl
@[simp] theorem State.setAenc_replies : (s.setAenc p).replies = s.replies := rfl
@[simp] theorem State.setAenc_serOut : (s.setAenc p).serOut T = s.serOut T := rfl
@[simp] theorem State.setAenc_flenOut : (s.setAenc p).flenOut T = s.flenOut T := rfl
@[simp] theorem State.setAenc_aencOut : (s.setAenc p).aencOut = aencUnit p := rfl
@[simp] theorem State.setAenc_desOut : (s.setAenc p).desOut T = s.desOut T := rfl

end setAenc

section setDes
variable (s : State w I) (p : DesIn) (T : Optab)

@[simp] theorem State.setDes_ser : (s.setDes p).ser = s.ser := rfl
@[simp] theorem State.setDes_flen : (s.setDes p).flen = s.flen := rfl
@[simp] theorem State.setDes_aenc : (s.setDes p).aenc = s.aenc := rfl
@[simp] theorem State.setDes_des : (s.setDes p).des = p := rfl
@[simp] theorem State.setDes_pending : (s.setDes p).pending = s.pending := rfl
@[simp] theorem State.setDes_replies : (s.setDes p).replies = s.replies := rfl
@[simp] theorem State.setDes_serOut : (s.setDes p).serOut T = s.serOut T := rfl
@[simp] theorem State.setDes_flenOut : (s.setDes p).flenOut T = s.flenOut T := rfl
@[simp] theorem State.setDes_aencOut : (s.setDes p).aencOut = s.aencOut := rfl
@[simp] theorem State.setDes_desOut : (s.setDes p).desOut T = desUnit T p := rfl

end setDes

section setPending
variable (s : State w I) (q : List (Invocation w I)) (T : Optab)

@[simp] theorem State.setPending_ser : (s.setPending q).ser = s.ser := rfl
@[simp] theorem State.setPending_flen : (s.setPending q).flen = s.flen := rfl
@[simp] theorem State.setPending_aenc : (s.setPending q).aenc = s.aenc := rfl
@[simp] theorem State.setPending_des : (s.setPending q).des = s.des := rfl
@[simp] theorem State.setPending_pending : (s.setPending q).pending = q := rfl
@[simp] theorem State.setPending_replies : (s.setPending q).replies = s.replies := rfl
@[simp] theorem State.setPending_serOut : (s.setPending q).serOut T = s.serOut T := rfl
@[simp] theorem State.setPending_flenOut : (s.setPending q).flenOut T = s.flenOut T := rfl
@[simp] theorem State.setPending_aencOut : (s.setPending q).aencOut = s.aencOut := rfl
@[simp] theorem State.setPending_desOut : (s.setPending q).desOut T = s.desOut T := rfl

end setPending

section addReply
variable (s : State w I) (r : Reply w) (T : Optab)

@[simp] theorem State.addReply_ser : (s.addReply r).ser = s.ser := rfl
@[simp] theorem State.addReply_flen : (s.addReply r).flen = s.flen := rfl
@[simp] theorem State.addReply_aenc : (s.addReply r).aenc = s.aenc := rfl
@[simp] theorem State.addReply_des : (s.addReply r).des = s.des := rfl
@[simp] theorem State.addReply_pending : (s.addReply r).pending = s.pending := rfl
@[simp] theorem State.addReply_replies : (s.addReply r).replies = s.replies ++ [r] := rfl
@[simp] theorem State.addReply_serOut : (s.addReply r).serOut T = s.serOut T := rfl
@[simp] theorem State.addReply_flenOut : (s.addReply r).flenOut T = s.flenOut T := rfl
@[simp] theorem State.addReply_aencOut : (s.addReply r).aencOut = s.aencOut := rfl
@[simp] theorem State.addReply_desOut : (s.addReply r).desOut T = s.desOut T := rfl

end addReply

/-- Writing back what is pending changes nothing. -/
@[simp] theorem State.setPending_self (s : State w I) : s.setPending s.pending = s := rfl

@[simp] theorem State.setPending_setPending (s : State w I) (q q' : List (Invocation w I)) :
    (s.setPending q).setPending q' = s.setPending q' := rfl

end Sys2Proof.Machine
end

