-- ==== Sys2Proof/Laws/Ops.lean ====
section
/-! SUPPORT. One lemma for each shared operation that says everything it does, and one for each case of the step. -/

namespace Sys2Proof.Machine

section Operations

variable {w : Nat} {I : Type} (T : Optab)

/-! ## Invoking a unit -/

theorem invokeSer_eq (p : SerIn w) (s : State w I) :
    invokeSer p s T = (s.setSer p).addReply (.ser (serUnit T p)) := rfl

theorem invokeFlen_eq (p : FlenIn w) (s : State w I) :
    invokeFlen p s T = (s.setFlen p).addReply (.flen (flenUnit T p)) := rfl

theorem invokeDes_eq (p : DesIn) (s : State w I) :
    invokeDes p s T = (s.setDes p).addReply (.des (desUnit T p)) := rfl

theorem invokeEncode24_eq (v : Word) (s : State w I) :
    invokeEncode24 v s = (s.setAenc { s.aenc with a24In := v }).addReply (.a24Bytes (packBytes3 (encode24 v))) := rfl

theorem invokeEncode32_eq (v : Word) (s : State w I) :
    invokeEncode32 v s = (s.setAenc { s.aenc with a32In := v }).addReply (.a32Bytes (packBytes4 (encode32 v))) := rfl

theorem invokeDecode24_eq (b : BitVec 24) (s : State w I) :
    invokeDecode24 b s =
      (s.setAenc { s.aenc with x24Bytes := b }).addReply (.x24Addr (decode24 (unpackBytes3 b))) := rfl

theorem invokeDecode32_eq (b : Word) (s : State w I) :
    invokeDecode32 b s =
      (s.setAenc { s.aenc with x32Bytes := b }).addReply (.x32Addr (decode32 (unpackBytes4 b))) := rfl

/-! ## Presenting a command -/

theorem presentCommand_eq (c : Command) (s : State w I) :
    presentCommand c s T =
      (((s.setSer ⟨BitVec.ofNat w c.id, c.addr.getD s.ser.addr⟩).addReply
        (.ser (serUnit T ⟨BitVec.ofNat w c.id, c.addr.getD s.ser.addr⟩))).setFlen ⟨BitVec.ofNat w c.id⟩).addReply
        (.flen (flenUnit T ⟨BitVec.ofNat w c.id⟩)) := rfl

theorem presentNoPayload_eq (id : Nat) (s : State w I) : presentNoPayload id s = presentCommand ⟨id, none⟩ s := rfl

theorem presentAddr24_eq (id : Nat) (v : Word) (s : State w I) :
    presentAddr24 id v s = presentCommand ⟨id, some v⟩ s := rfl

/-- Every instruction's meaning presents the instruction as a pair. -/
theorem exec_eq (i : Instr) (s : State) : exec i s = .next (presentCommand (commandOf i) s) := by
  cases i <;> rfl

/-! ## Receiving a frame -/

theorem receiveFrame_np (op : Byte) (s : State w I) :
    receiveFrame (.np op) s T =
      (s.setDes { s.des with opcode := op, addrPresent := false }).addReply
        (.des (desUnit T { s.des with opcode := op, addrPresent := false })) := rfl

theorem receiveFrame_a24 (op : Byte) (a : Bytes3) (s : State w I) :
    receiveFrame (.a24 op a) s T =
      (((s.setAenc { s.aenc with x24Bytes := packBytes3 a }).addReply (.x24Addr (decode24 a))).setDes
        ⟨op, true, false, decode24 a⟩).addReply (.des (desUnit T ⟨op, true, false, decode24 a⟩)) := by
  have h : (invokeDecode24 (packBytes3 a) s).aencOut.x24Addr = decode24 a := by
    simp [invokeDecode24_eq, aencUnit]
  have h2 := invokeDecode24_eq (packBytes3 a) s
  rw [unpackBytes3_packBytes3] at h2
  simp only [receiveFrame]
  rw [invokeDes_eq, h, h2]

/-! ## The next invocation -/

variable (run : I → State w I → Host.Outcome (State w I) Fault Refusal) (named : Nat → Word → Option I)

theorem stepWith_idle (s : State w I) (h : s.pending = []) : stepWith T run named s = .next s := by
  simp [stepWith, h]

theorem stepWith_port (s : State w I) (r : PortRequest w) (q : List (Invocation w I)) (h : s.pending = .port r :: q) :
    stepWith T run named s = .next (invokePort r (s.setPending q) T) := by
  simp [stepWith, h]

theorem stepWith_command (s : State w I) (i : I) (q : List (Invocation w I)) (h : s.pending = .command i :: q) :
    stepWith T run named s = run i (s.setPending q) := by
  simp [stepWith, h]

theorem stepWith_received_some (s : State w I) (f : Frame) (q : List (Invocation w I)) (i : I)
    (h : s.pending = .received f :: q) (hi : deserialized T named (receiveFrame f (s.setPending q) T) = some i) :
    stepWith T run named s = run i (receiveFrame f (s.setPending q) T) := by
  simp [stepWith, h, hi]

theorem stepWith_received_none (s : State w I) (f : Frame) (q : List (Invocation w I))
    (h : s.pending = .received f :: q) (hi : deserialized T named (receiveFrame f (s.setPending q) T) = none) :
    stepWith T run named s = .next (receiveFrame f (s.setPending q) T) := by
  simp [stepWith, h, hi]

end Operations

end Sys2Proof.Machine
end

