-- ==== Sys2Proof/Laws/Optab.lean ====
section
/-! SUPPORT. The table lookups, and that the default table is admissible (R55, R56). -/

namespace Sys2Proof

/-- The row the forward lookup answers is in the table and has the identifier asked for. -/
theorem Optab.byId_some {T : Optab} {i : Nat} {r : Row} (h : T.byId i = some r) : r ∈ T ∧ r.id = i :=
  ⟨List.mem_of_find?_eq_some h, by simpa using List.find?_some h⟩

/-- The row the reverse lookup answers is in the table and has the opcode asked for. -/
theorem Optab.byOpcode_some {T : Optab} {b : Byte} {r : Row} (h : T.byOpcode b = some r) : r ∈ T ∧ r.opcode = b :=
  ⟨List.mem_of_find?_eq_some h, by simpa using List.find?_some h⟩

/-- The forward lookup fails exactly where no row has the identifier. -/
theorem Optab.byId_none {T : Optab} {i : Nat} : T.byId i = none ↔ ∀ r ∈ T, r.id ≠ i := by
  simp [Optab.byId, List.find?_eq_none]

/-- The reverse lookup fails exactly where no row has the opcode. -/
theorem Optab.byOpcode_none {T : Optab} {b : Byte} : T.byOpcode b = none ↔ ∀ r ∈ T, r.opcode ≠ b := by
  simp [Optab.byOpcode, List.find?_eq_none]

/-- In an admissible table the forward lookup finds every row by its identifier. -/
theorem Optab.Admissible.byId_mem {w : Nat} {reserved : List Byte} {T : Optab} (h : T.Admissible w reserved) {r : Row}
    (hr : r ∈ T) : T.byId r.id = some r := by
  cases e : T.byId r.id with
  | none => exact absurd rfl (Optab.byId_none.1 e r hr)
  | some r' =>
    obtain ⟨hr', hid⟩ := Optab.byId_some e
    rw [List.inj_on_of_nodup_map h.ids_distinct hr' hr hid]

/-- In an admissible table the reverse lookup finds every row by its opcode. -/
theorem Optab.Admissible.byOpcode_mem {w : Nat} {reserved : List Byte} {T : Optab} (h : T.Admissible w reserved)
    {r : Row} (hr : r ∈ T) : T.byOpcode r.opcode = some r := by
  cases e : T.byOpcode r.opcode with
  | none => exact absurd rfl (Optab.byOpcode_none.1 e r hr)
  | some r' =>
    obtain ⟨hr', hop⟩ := Optab.byOpcode_some e
    rw [List.inj_on_of_nodup_map h.opcodes_distinct hr' hr hop]

/-- R55: "the default OPTAB of rule R55 is admissible". -/
theorem OPTAB_admissible : OPTAB.Admissible CMD_ID_W RESERVED_OPCODES := by
  constructor <;> decide

end Sys2Proof
end

