-- ==== Sys2Proof/Laws/PerInstr.lean ====
section
/-! SUPPORT. Facts about every instruction as syntax, one lemma per constructor (LAWS.json). -/

/-- Every command is a row of the default table (R21, R55): its identifier has a row; the encoder's first byte is that row's
opcode; and it has as many bytes as the row's shape demands, carrying an address exactly when the shape is Addr24. -/
def Sys2Proof.Laws.WireOpcode.Statement (i : Sys2Proof.Instr) : Prop :=
  ∃ r, Sys2Proof.OPTAB.byId (Sys2Proof.Machine.cmdIdOf i) = some r ∧
    (Sys2Proof.encode i).head? = some r.opcode ∧
    ((r.shape = .noPayload ∧ Sys2Proof.Machine.addrOf i = none ∧ (Sys2Proof.encode i).length = 1) ∨
     (r.shape = .addr24 ∧ (Sys2Proof.Machine.addrOf i).isSome = true ∧ (Sys2Proof.encode i).length = 4))

namespace Sys2Proof.Laws.WireOpcode

theorem readJEDECID : Statement .readJEDECID := ⟨_, rfl, rfl, .inl ⟨rfl, rfl, rfl⟩⟩
theorem writeEnable : Statement .writeEnable := ⟨_, rfl, rfl, .inl ⟨rfl, rfl, rfl⟩⟩
theorem reset : Statement .reset := ⟨_, rfl, rfl, .inl ⟨rfl, rfl, rfl⟩⟩
theorem readData (addr : Word) : Statement (.readData addr) := ⟨_, rfl, rfl, .inr ⟨rfl, rfl, rfl⟩⟩
theorem pageProgram (addr : Word) : Statement (.pageProgram addr) := ⟨_, rfl, rfl, .inr ⟨rfl, rfl, rfl⟩⟩
theorem fastRead (addr : Word) : Statement (.fastRead addr) := ⟨_, rfl, rfl, .inr ⟨rfl, rfl, rfl⟩⟩
theorem fastReadDualOutput (addr : Word) : Statement (.fastReadDualOutput addr) := ⟨_, rfl, rfl, .inr ⟨rfl, rfl, rfl⟩⟩
theorem fastReadQuadOutput (addr : Word) : Statement (.fastReadQuadOutput addr) := ⟨_, rfl, rfl, .inr ⟨rfl, rfl, rfl⟩⟩
theorem readSFDPRegister (addr : Word) : Statement (.readSFDPRegister addr) := ⟨_, rfl, rfl, .inr ⟨rfl, rfl, rfl⟩⟩

end Sys2Proof.Laws.WireOpcode
end

