-- ==== Sys2Proof/Tests/Slice0.lean ====
section
/-! SUPPORT. The model's own tests: words written out from the spec's encodings, the spec's own vectors (95_test_vectors.md,
cited as S<n>, P<n> or by section), the well-formedness smoke, and for each statement with hypotheses a witness that
meets them. -/

namespace Sys2Proof.Tests

open Sys2Proof Sys2Proof.Machine

/-- The next state, where there is one. -/
def stateOf : Host.Outcome State Fault Refusal → Option State
  | .next s => some s
  | .fault _ => none
  | .refused _ => none

/-- One step on one pending invocation, from reset. -/
def after (inv : Invocation) : Option State := stateOf (step (State.reset.setPending [inv]))

/-- The answers of that step. -/
def answers (inv : Invocation) : Option (List Reply) := (after inv).map State.replies

/-! ## Well-formedness: a stored word with a bit above 23 is no canonical form -/

theorem test_wf_readData : (Instr.readData 0x01000000).wf = false ∧ (Instr.readData 0x00FFFFFF).wf = true := by decide
theorem test_wf_pageProgram : (Instr.pageProgram 0x80000000).wf = false := by decide
theorem test_wf_fastRead : (Instr.fastRead 0xFF000000).wf = false := by decide
theorem test_wf_fastReadDualOutput : (Instr.fastReadDualOutput 0x02123456).wf = false := by decide
theorem test_wf_fastReadQuadOutput : (Instr.fastReadQuadOutput 0x10000000).wf = false := by decide
theorem test_wf_readSFDPRegister : (Instr.readSFDPRegister 0x40000010).wf = false := by decide
theorem test_wf_noPayload : Instr.readJEDECID.wf = true ∧ Instr.writeEnable.wf = true ∧ Instr.reset.wf = true := by decide

/-! ## Decoding: each constructor's word, bit by bit from the "encoding" column of spec/opcode_table.json -/

theorem test_decode_readJEDECID : decodeTableWord 8 0b10011111 = some .readJEDECID := by decide
theorem test_decode_writeEnable : decodeTableWord 8 0b00000110 = some .writeEnable := by decide
theorem test_decode_reset : decodeTableWord 8 0b10011001 = some .reset := by decide
theorem test_decode_readData :
    decodeTableWord 32 0b00000000_00000001_00000000_00000011 = some (.readData 0x000100) := by decide
theorem test_decode_pageProgram :
    decodeTableWord 32 0b10101011_11001101_11101111_00000010 = some (.pageProgram 0xABCDEF) := by decide
theorem test_decode_fastRead :
    decodeTableWord 32 0b00010010_00110100_01010110_00001011 = some (.fastRead 0x123456) := by decide
theorem test_decode_fastReadDualOutput :
    decodeTableWord 32 0b10101101_10111110_11101111_00111011 = some (.fastReadDualOutput 0xADBEEF) := by decide
theorem test_decode_fastReadQuadOutput :
    decodeTableWord 32 0b11111111_11111111_11111111_01101011 = some (.fastReadQuadOutput 0xFFFFFF) := by decide
theorem test_decode_readSFDPRegister :
    decodeTableWord 32 0b00000000_00000000_00010000_01011010 = some (.readSFDPRegister 0x000010) := by decide

/-- Section 2.6: neighbours of the table's bytes, and 0x00 and 0xFF, are unknown; no bit is a "don't care" (R63). -/
theorem test_decode_unknown :
    decode [0x00#8] = .rejected (.unknownOpcode 0x00#8) ∧ decode [0xFF#8, 0#8, 0#8, 0#8] = .rejected (.unknownOpcode 0xFF#8) ∧
    decode [0x9E#8] = .rejected (.unknownOpcode 0x9E#8) ∧ decode [0x13#8, 0#8, 0#8, 0#8] = .rejected (.unknownOpcode 0x13#8) ∧
    decode [0x66#8] = .rejected (.unknownOpcode 0x66#8) := by decide

/-- R64: too few bytes, and what follows a frame. -/
theorem test_decode_stream :
    decode [] = .rejected .noByte ∧ decode [0x03#8, 0#8, 1#8] = .rejected (.truncated 0x03#8) ∧
    decode [0x9F#8, 0x03#8] = .command .readJEDECID [0x03#8] := by decide

/-- S8: the bytes of PageProgram at 0xABCDEF, in the order sent. -/
theorem test_encode_pageProgram : encode (.pageProgram 0xABCDEF) = [0x02#8, 0xEF#8, 0xCD#8, 0xAB#8] := by decide

/-! ## The address encoder (S2; sections 2.1 and 2.2) -/

theorem test_encode24 :
    encode24 0x00010203 = ⟨0x03, 0x02, 0x01⟩ ∧ encode24 0x12345678 = ⟨0x78, 0x56, 0x34⟩ ∧
    encode24 0x00800000 = ⟨0x00, 0x00, 0x80⟩ ∧ encode24 0xFF000000 = ⟨0x00, 0x00, 0x00⟩ := by decide
theorem test_encode32 : encode32 0x12345678 = ⟨0x78, 0x56, 0x34, 0x12⟩ := by decide
theorem test_decode24 : decode24 ⟨0xEF, 0xCD, 0xAB⟩ = 0x00ABCDEF := by decide
theorem test_decode32 : decode32 ⟨0x04, 0x03, 0x02, 0x01⟩ = 0x01020304 := by decide
theorem test_aenc_ports : answers (.port (.encode24 0xFF010203)) = some [.a24Bytes 0x010203] := by decide
theorem test_x24_ports : answers (.port (.decode24 0xABCDEF)) = some [.x24Addr 0x00ABCDEF] := by decide

/-! ## The serializer ports (P4; sections 2.3 to 2.5) -/

theorem test_ser_readSFDPRegister :
    answers (.port (.serialize 8 0x00123456)) = some [.ser ⟨0x1234565A, 4, 0⟩] := by decide
theorem test_ser_high_byte : answers (.port (.serialize 3 0xDEADBEEF)) = some [.ser ⟨0xADBEEF03, 4, 0⟩] := by decide
theorem test_ser_ignores_addr : answers (.port (.serialize 0 0xDEADBEEF)) = some [.ser ⟨0x0000009F, 1, 0⟩] := by decide
theorem test_ser_unsupported : answers (.port (.serialize 15 0xDEADBEEF)) = some [.ser ⟨0x00000000, 0, 1⟩] := by decide
theorem test_flen_unsupported : answers (.port (.frameLength 9)) = some [.flen ⟨0, 1⟩] := by decide

/-! ## The deserializer ports (section 2.7) -/

theorem test_des_ignored : answers (.port (.deserialize 0x9F false true 0xFFFFFFFF)) = some [.des ⟨0, 0, 0⟩] := by decide
theorem test_des_unexpected : answers (.port (.deserialize 0x9F true true 0)) = some [.des ⟨4, 0, 0⟩] := by decide
theorem test_des_missing : answers (.port (.deserialize 0x03 false true 0x100)) = some [.des ⟨3, 0, 0⟩] := by decide
theorem test_des_clears_high_byte :
    answers (.port (.deserialize 0x03 true false 0xFF000100)) = some [.des ⟨0, 3, 0x00000100⟩] := by decide
theorem test_des_width_is_the_tag : answers (.port (.deserialize 0x03 true true 0x100)) = some [.des ⟨5, 0, 0⟩] := by decide
theorem test_des_unknown_first : answers (.port (.deserialize 0xFF true true 0x100)) = some [.des ⟨2, 0, 0⟩] := by decide

/-! ## Commands, one step each, from a received frame (S6 to S8, P4; section 2.4) -/

theorem test_step_readJEDECID :
    answers (.received (.np 0x9F)) = some [.des ⟨0, 0, 0⟩, .ser ⟨0x0000009F, 1, 0⟩, .flen ⟨1, 0⟩] := by decide
theorem test_step_writeEnable :
    answers (.received (.np 0x06)) = some [.des ⟨0, 1, 0⟩, .ser ⟨0x00000006, 1, 0⟩, .flen ⟨1, 0⟩] := by decide
theorem test_step_reset :
    answers (.received (.np 0x99)) = some [.des ⟨0, 2, 0⟩, .ser ⟨0x00000099, 1, 0⟩, .flen ⟨1, 0⟩] := by decide
theorem test_step_readData :
    answers (.received (.a24 0x03 ⟨0x00, 0x01, 0x00⟩)) =
      some [.x24Addr 0x00000100, .des ⟨0, 3, 0x00000100⟩, .ser ⟨0x00010003, 4, 0⟩, .flen ⟨4, 0⟩] := by decide
theorem test_step_pageProgram :
    answers (.received (.a24 0x02 ⟨0xEF, 0xCD, 0xAB⟩)) =
      some [.x24Addr 0x00ABCDEF, .des ⟨0, 4, 0x00ABCDEF⟩, .ser ⟨0xABCDEF02, 4, 0⟩, .flen ⟨4, 0⟩] := by decide
theorem test_step_fastRead : answers (.command (.fastRead 0x00123456)) = some [.ser ⟨0x1234560B, 4, 0⟩, .flen ⟨4, 0⟩] := by decide
theorem test_step_fastReadDualOutput :
    answers (.command (.fastReadDualOutput 0xDEADBEEF)) = some [.ser ⟨0xADBEEF3B, 4, 0⟩, .flen ⟨4, 0⟩] := by decide
theorem test_step_fastReadQuadOutput :
    answers (.command (.fastReadQuadOutput 0x00FFFFFF)) = some [.ser ⟨0xFFFFFF6B, 4, 0⟩, .flen ⟨4, 0⟩] := by decide
theorem test_step_readSFDPRegister :
    answers (.command (.readSFDPRegister 0x00000010)) = some [.ser ⟨0x0000105A, 4, 0⟩, .flen ⟨4, 0⟩] := by decide

/-- P3: a frame that is no command gives its error and runs nothing. -/
theorem test_step_bad_frames :
    answers (.received (.np 0x02)) = some [.des ⟨3, 0, 0⟩] ∧ answers (.received (.np 0xFF)) = some [.des ⟨2, 0, 0⟩] ∧
    answers (.received (.a24 0x9F ⟨0, 0, 0⟩)) = some [.x24Addr 0, .des ⟨4, 0, 0⟩] := by decide

/-- The word of a table row, placed for the fetch after reset, is run by the very next step. -/
theorem test_fetch_word :
    (stateOf (step (State.reset.withFetchWord 32 0x00010003))).map (·.serOut) = some ⟨0x00010003, 4, 0⟩ ∧
    (stateOf (step (State.reset.withFetchWord 8 0x99))).map (·.serOut) = some ⟨0x00000099, 1, 0⟩ := by decide

/-! ## The notation (R65; S7 to S10) -/

theorem test_text_command :
    commandText (.readData 0xFF000100) = "ReadData(Address24(0x000100))".toList := by decide
theorem test_text_frame : frameText (.a24 0x02 ⟨0xEF, 0xCD, 0xAB⟩) = "[0x02, 0xEF, 0xCD, 0xAB]".toList := by decide
theorem test_text_error : resultText commandText (.err .missingAddress) = "Err(MissingAddress)".toList := by decide
theorem test_read_serialize :
    readInvocation "serialize(PageProgram(Address24(0xABCDEF)))".toList = some (.port (.serialize 4 0x00ABCDEF)) := by rfl
theorem test_read_deserialize :
    readInvocation "deserialize(0x03, Some(Address32(256)))".toList = some (.port (.deserialize 0x03 true true 0x100)) := by rfl
theorem test_read_frame_length :
    readInvocation "frame_length(ReadJEDECID)".toList = some (.port (.frameLength 0)) := by rfl
theorem test_read_rejects :
    readInvocation "serialize(readdata(Address24(0)))".toList = none ∧
    readInvocation "encode24(Address24(0x100000000))".toList = none := ⟨by rfl, by rfl⟩

/-! ## Witnesses: each statement's hypotheses are met together -/

/-- For `SourcedOpcodesHoldInEveryAdmissibleTable` and `NcmdBytesAreKnown`: the default table, and one of the fewest rows on
the narrowest ports. -/
theorem test_witness_sourced_opcodes :
    OPTAB.Admissible CMD_ID_W [] ∧
    Optab.Admissible 2 []
      [⟨3, .readData, .addr24, 0x03#8⟩, ⟨0, .readJEDECID, .noPayload, 0x9F#8⟩, ⟨1, .pageProgram, .addr24, 0x02#8⟩] :=
  ⟨OPTAB_admissible, by constructor <;> decide⟩

/-- R56 to the letter (assumption 22): a second row named ReadData, of another shape, is admissible. -/
theorem test_names_are_free : Optab.Admissible CMD_ID_W [] (OPTAB ++ [⟨9, .readData, .noPayload, 0x77#8⟩]) := by
  constructor <;> decide

/-- Other values of the six opcode parameters than the defaults. -/
def otherOpcodes : Opcodes := ⟨0x50, 0x66, 0xEB, 0xBB, 0xAB, 0x48⟩

/-- For the statements over the opcode parameters. -/
theorem test_witness_opcodes :
    defaultOpcodes.Admissible [] ∧ otherOpcodes.Admissible [0x99] ∧
    decode [0xEB#8, 0x56#8, 0x34#8, 0x12#8] otherOpcodes = .command (.fastRead 0x123456) [] ∧
    serializeCommand (optabOf otherOpcodes) (commandOf .reset) = .ok (.np 0x66) :=
  ⟨by constructor <;> decide, by constructor <;> decide, by decide, by decide⟩

/-- For `ReverseLookupUndoesTheForwardLookup`. -/
theorem test_witness_reverse_lookup :
    OPTAB.Admissible CMD_ID_W RESERVED_OPCODES ∧ (⟨8, .readSFDPRegister, .addr24, 0x5A#8⟩ : Row) ∈ OPTAB :=
  ⟨OPTAB_admissible, by decide⟩

/-- For `DefaultTableKnowsExactlyNineBytes`. -/
theorem test_witness_unknown_byte : (0xFF#8) ∉ OPTAB.map Row.opcode ∧ (0x00#8) ∉ OPTAB.map Row.opcode := by decide

/-- For the three clauses of `SerializeFollowsTheShapeOfTheRow`, `FrameLengthFollowsTheShapeOfTheRow` and
`SerializerPortValues`. -/
theorem test_witness_rows_by_id :
    OPTAB.byId 9 = none ∧
    OPTAB.byId 2 = some ⟨2, .reset, .noPayload, 0x99#8⟩ ∧
    OPTAB.byId 3 = some ⟨3, .readData, .addr24, 0x03#8⟩ ∧
    frameLength OPTAB 8 = .ok 4 := by decide

/-- For the clauses of `FrameLengthAgreesWithSerialize`. -/
theorem test_witness_frame_length_agrees :
    serialize OPTAB 0 0 = .ok (.np 0x9F#8) ∧ frameLength OPTAB 0 = .ok 1 ∧
    serialize OPTAB 9 0 = .err .unsupportedCommand := by decide

/-- For `AFrameHoldsNothingButOpcodeAndAddress`. -/
theorem test_witness_frame_contents :
    OPTAB.Admissible CMD_ID_W [] ∧ serialize OPTAB 8 0xFFFFFFFF = .ok (.a24 0x5A#8 ⟨0xFF#8, 0xFF#8, 0xFF#8⟩) :=
  ⟨OPTAB_admissible, by decide⟩

/-- For `SerializeIsInjectiveOnCommands`: two words that are one Address24, in one row. -/
theorem test_witness_injective :
    OPTAB.Admissible CMD_ID_W [] ∧ (⟨3, .readData, .addr24, 0x03#8⟩ : Row) ∈ OPTAB ∧
      sameAddr24 0xFF000100#32 0x00000100#32 :=
  ⟨OPTAB_admissible, by decide, by unfold sameAddr24; decide⟩

/-- For the two clauses of `IdentifiersPastTheTableAreUnsupported`, where they meet. -/
theorem test_witness_identifiers : 9 ≤ (9 : CmdId).toNat ∧ 9 ≤ (15 : CmdId).toNat ∧ (8 : CmdId).toNat ≤ 8 := by decide

/-- For the four clauses of `DeserializeFollowsTheMatrix` and the three of `DeserializerPortValues`; the table of the last
row is not admissible, and R98 speaks of it. -/
theorem test_witness_matrix :
    OPTAB.byOpcode 0xFF#8 = none ∧
    OPTAB.byOpcode 0x9F#8 = some ⟨0, .readJEDECID, .noPayload, 0x9F#8⟩ ∧
    OPTAB.byOpcode 0x5A#8 = some ⟨8, .readSFDPRegister, .addr24, 0x5A#8⟩ ∧
    Optab.byOpcode [⟨0, .other 0, .addr32, 0x13#8⟩] 0x13#8 = some ⟨0, .other 0, .addr32, 0x13#8⟩ := by decide

/-- For `EachErrorArisesUnderExactlyItsCondition`: an admissible table with a reserved byte. -/
theorem test_witness_errors : OPTAB.Admissible CMD_ID_W [0x66#8] ∧ (0x66#8) ∈ [0x66#8] := by
  constructor
  · constructor <;> decide
  · decide

/-- For `An32BitArgumentNeverGivesACommand`. -/
theorem test_witness_32bit_argument :
    OPTAB.Admissible CMD_ID_W [] ∧ deserialize OPTAB 0x03#8 (.a32 0x100#32) = .err .addressWidthMismatch :=
  ⟨OPTAB_admissible, by decide⟩

/-- For the three clauses of `DeserializeUndoesSerialize`. -/
theorem test_witness_round_trip :
    OPTAB.Admissible CMD_ID_W [] ∧ (⟨0, .readJEDECID, .noPayload, 0x9F#8⟩ : Row) ∈ OPTAB ∧
      (⟨4, .pageProgram, .addr24, 0x02#8⟩ : Row) ∈ OPTAB ∧
      deserialize OPTAB 0x02#8 (.a24 0xFFABCDEF#32) = .ok ⟨4, some 0x00ABCDEF#32⟩ :=
  ⟨OPTAB_admissible, by decide, by decide, by decide⟩

/-- For `PortErrorCodesAndZeroCompanions`. -/
theorem test_witness_port_error_codes :
    OPTAB.Admissible CMD_ID_W [] ∧ (desUnit OPTAB ⟨0x03, true, true, 0x100⟩ : DesOut) = ⟨5, 0, 0⟩ :=
  ⟨OPTAB_admissible, by decide⟩

/-- For the clauses of `IgnoredInputsChangeNoOutput`. -/
theorem test_witness_ignored_inputs :
    OPTAB.Admissible CMD_ID_W [] ∧ sameAddr24 0xFF000100#32 0x00000100#32 ∧
      (serUnit OPTAB (⟨2, 0⟩ : SerIn)).len ≠ 4 ∧ (serUnit OPTAB (⟨9, 0⟩ : SerIn)).len ≠ 4 :=
  ⟨OPTAB_admissible, by unfold sameAddr24; decide, by decide, by decide⟩

/-- For `WriteEnableAndResetAreSpelledByTheirOpcodes` and `FastReadsAndReadSFDPRegisterAreSpelledByTheirOpcodes`. -/
theorem test_witness_parameters :
    otherOpcodes.Admissible [] ∧ (2, otherOpcodes.reset) ∈ [(1, otherOpcodes.writeEnable), (2, otherOpcodes.reset)] ∧
    (8, otherOpcodes.readSFDPRegister) ∈ [(5, otherOpcodes.fastRead), (6, otherOpcodes.fastReadDualOutput),
      (7, otherOpcodes.fastReadQuadOutput), (8, otherOpcodes.readSFDPRegister)] :=
  ⟨by constructor <;> decide, by simp, by simp⟩

/-- For `AFrameIsSpelledByExactlyItsTableRow`. -/
theorem test_witness_table_row :
    serializeCommand OPTAB (commandOf (.readData 0xFF000100)) = .ok (.a24 0x03 ⟨0x00, 0x01, 0x00⟩) ∧
    (⟨.readData, 4#3, 0x00000003#32, 0x000000FF#32⟩ : EncodingRow) ∈ encodingTable := by decide

/-- Commands of the default table, with and without an address, and pairs that R21 excludes. -/
theorem test_of_table :
    (⟨4, some 0xFFABCDEF⟩ : Command).OfTable OPTAB ∧ (⟨2, none⟩ : Command).OfTable OPTAB ∧
    ¬ (⟨4, none⟩ : Command).OfTable OPTAB ∧ ¬ (⟨2, some 0⟩ : Command).OfTable OPTAB ∧ ¬ (⟨9, none⟩ : Command).OfTable OPTAB := by
  unfold Command.OfTable; decide

/-- For the clauses of `DecodeAndEncodeAgreeOverAnyTable`, and for `CommandsOfAnyTableComplete`. -/
theorem test_witness_any_table_codec :
    OPTAB.Admissible CMD_ID_W [] ∧ (⟨4, some 0xFFABCDEF⟩ : Command).OfTable OPTAB ∧
    encodeCommand OPTAB ⟨4, some 0xFFABCDEF⟩ = some [0x02, 0xEF, 0xCD, 0xAB] ∧
    decodeCommand OPTAB [0x02, 0xEF, 0xCD, 0xAB, 0x9F] = .command ⟨4, some 0x00ABCDEF⟩ [0x9F] :=
  ⟨OPTAB_admissible, test_of_table.1, by decide, by decide⟩

/-- For the second clause of `DecodeUndoesEncode`. -/
theorem test_witness_wf : (Instr.readSFDPRegister 0x00FFFFFF).wf = true := by decide

/-- For `EncodeUndoesDecode`: bytes that decode, and something after them. -/
theorem test_witness_decodes :
    decode [0x6B#8, 0xFF#8, 0xFF#8, 0xFF#8, 0x9F#8] = .command (.fastReadQuadOutput 0x00FFFFFF) [0x9F#8] := by decide

/-- For `ReadingTheTextOfACommandGivesItBack`: what follows begins with no letter or digit, or is nothing. -/
theorem test_witness_text :
    (∀ c ∈ [')'].head?, isNameChar c = false) ∧ (∀ c ∈ ([] : List Char).head?, isNameChar c = false) :=
  ⟨by simp; rfl, by simp⟩

/-- For `StepRunsTheDecodedCommand`, in both formats. -/
theorem test_witness_decoded_frames :
    decode (Frame.np 0x9F).bytes = .command .readJEDECID [] ∧
    decode (Frame.a24 0x03 ⟨0xFF, 0xFF, 0xFF⟩).bytes = .command (.readData 0x00FFFFFF) [] := by decide

/-- For `StepRunsTheDecodedCommandOfAnyTable`, in both formats. -/
theorem test_witness_decoded_frames_any_table :
    OPTAB.Admissible CMD_ID_W [] ∧ decodeCommand OPTAB (Frame.np 0x9F).bytes = .command ⟨0, none⟩ [] ∧
    decodeCommand OPTAB (Frame.a24 0x03 ⟨0xFF, 0xFF, 0xFF⟩).bytes = .command ⟨3, some 0x00FFFFFF⟩ [] :=
  ⟨OPTAB_admissible, by decide, by decide⟩

/-- For `ARunOverAnyTableAnswersEachInvocationAsIfAlone` and `EveryStepOverAnyTableKeepsAnswersSane`: a state of the machine of
any table, with a command and a frame pending. -/
def pairState : State CMD_ID_W Command := State.powerUp.setPending [.command ⟨4, some 0xFFABCDEF⟩, .received (.np 0x06)]

theorem test_witness_any_table_run :
    OPTAB.Admissible CMD_ID_W [] ∧ (∀ c, Invocation.command c ∈ pairState.pending → c.OfTable OPTAB) ∧ pairState.Sane := by
  refine ⟨OPTAB_admissible, fun c hc => ?_, by simp [pairState, State.Sane, State.powerUp]⟩
  have h : c = ⟨4, some 0xFFABCDEF⟩ := by simpa [pairState] using hc
  exact h ▸ test_of_table.1

/-- An 8-bit word with an address-carrying opcode: its absent bits are zeros (assumption 11), where the stream is too short
(assumption 16). -/
theorem test_short_table_word :
    decodeTableWord 8 0x03 = some (.readData 0) ∧ decode [0x03#8] = .rejected (.truncated 0x03#8) := by decide

/-- For `StepRunsThePlacedWord`, in both formats. -/
theorem test_witness_placed_word :
    decodeTableWord 8 0x9F = some .readJEDECID ∧ decodeTableWord 32 0xFFFFFF0B = some (.fastRead 0x00FFFFFF) := by decide

/-- For `ABadFrameIsAnsweredAndRunsNothing`, in both formats. -/
theorem test_witness_bad_frames :
    deserialize OPTAB (Frame.np 0x03).opcode (argOfFrame (.np 0x03)) = .err .missingAddress ∧
    deserialize OPTAB (Frame.a24 0x9F ⟨0, 0, 0⟩).opcode (argOfFrame (.a24 0x9F ⟨0, 0, 0⟩)) = .err .unexpectedAddress := by
  decide

/-- A state with a sane answer already given, and a command pending. -/
def saneState : State := (State.reset.addReply (.flen ⟨4, 0⟩)).setPending [.command .writeEnable]

/-- For `EveryStepKeepsAnswersSane`: a sane state that is not reset, with a next state. -/
theorem test_witness_sane_step :
    saneState.Sane ∧ (stateOf (step saneState)).map State.replies =
      some [.flen ⟨4, 0⟩, .ser ⟨0x00000006, 1, 0⟩, .flen ⟨1, 0⟩] := by
  constructor
  · intro r hr
    have h : r = .flen ⟨4, 0⟩ := by simpa [saneState, State.reset, State.powerUp] using hr
    subst h
    exact .inr (.inl rfl)
  · decide

end Sys2Proof.Tests
end

section
/-! PROOFS. The opcode table: the lookups of an admissible table, the value-level operations row by row, and the statements
of the encoding family about them (R54, R57, R58). -/

namespace Sys2Proof

section Lookups

variable {w : Nat} {reserved : List Byte} {T : Optab}

/-- The reverse lookup answers exactly the table's rows, each for its own opcode (R58). -/
theorem Optab.Admissible.byOpcode_eq_some_iff (h : T.Admissible w reserved) {b : Byte} {r : Row} :
    T.byOpcode b = some r ↔ r ∈ T ∧ r.opcode = b := by
  constructor
  · exact Optab.byOpcode_some
  · rintro ⟨hr, rfl⟩
    exact h.byOpcode_mem hr

/-- The reverse lookup fails exactly outside the opcode column, in any table. -/
theorem Optab.byOpcode_eq_none_iff_notMem {b : Byte} : T.byOpcode b = none ↔ b ∉ T.map Row.opcode := by
  rw [Optab.byOpcode_none]
  simp

/-- R54, R56 (c): no row of an admissible table has the opcode 0xFF. -/
theorem Optab.Admissible.byOpcode_ff (h : T.Admissible w reserved) : T.byOpcode 0xFF#8 = none :=
  Optab.byOpcode_none.2 h.opcode_ne_ff

end Lookups

namespace Machine

section Rows

variable {T : Optab} {r : Row}

/-- R86, a row of shape NoPayload: the opcode alone, whatever the address. -/
theorem serialize_of_noPayload {i : Nat} (hr : T.byId i = some r) (hs : r.shape = .noPayload) (v : Word) :
    serialize T i v = .ok (.np r.opcode) := by
  simp [serialize, hr, hs]

/-- R86, a row of shape Addr24: the opcode and the three address bytes. -/
theorem serialize_of_addr24 {i : Nat} (hr : T.byId i = some r) (hs : r.shape = .addr24) (v : Word) :
    serialize T i v = .ok (.a24 r.opcode (encode24 v)) := by
  simp [serialize, hr, hs]

/-- R98, a byte of no row: UnknownOpcode, whatever the argument. -/
theorem deserialize_of_byOpcode_none {b : Byte} (hb : T.byOpcode b = none) (arg : AddrArg) :
    deserialize T b arg = .err .unknownOpcode := by
  simp [deserialize, hb]

/-- R98, a row of shape NoPayload and no address: the row's Command. -/
theorem deserialize_of_noPayload_absent {b : Byte} (hr : T.byOpcode b = some r) (hs : r.shape = .noPayload) :
    deserialize T b .absent = .ok ⟨r.id, none⟩ := by
  simp [deserialize, hr, hs]

end Rows

end Machine

open Machine

/-- Settles O5: R56 (b) gives the three rows and (c) keeps 0xFF out; both lookups find such a row, and its shape decides
what the operations answer. -/
theorem sourcedOpcodesHoldInEveryAdmissibleTable : Obligations.SourcedOpcodesHoldInEveryAdmissibleTable := by
  intro w reserved T h
  refine ⟨?readData, ?readJEDECID, ?pageProgram, ?unknown⟩
  case readData =>
    obtain ⟨r, hr, hname, hshape, hop⟩ := h.has_readData
    exact ⟨r, hr, hname, fun v => hop ▸ serialize_of_addr24 (h.byId_mem hr) hshape v⟩
  case readJEDECID =>
    obtain ⟨r, hr, hname, hshape, hop⟩ := h.has_readJEDECID
    have hfound : T.byOpcode 0x9F#8 = some r := h.byOpcode_eq_some_iff.2 ⟨hr, hop⟩
    exact ⟨r, hr, hname, fun v => hop ▸ serialize_of_noPayload (h.byId_mem hr) hshape v,
      deserialize_of_noPayload_absent hfound hshape⟩
  case pageProgram =>
    obtain ⟨r, hr, hname, hshape, hop⟩ := h.has_pageProgram
    exact ⟨r, hr, hname, fun v => hop ▸ serialize_of_addr24 (h.byId_mem hr) hshape v⟩
  case unknown =>
    exact deserialize_of_byOpcode_none h.byOpcode_ff

/-- Settles O6: identifiers and opcodes are each distinct (R56 a), so both lookups find the very row. -/
theorem reverseLookupUndoesTheForwardLookup : Obligations.ReverseLookupUndoesTheForwardLookup := by
  intro w reserved T h
  refine ⟨?forward, ?found, ?absent⟩
  case forward => exact fun r hr => ⟨h.byId_mem hr, h.byOpcode_mem hr⟩
  case found => exact fun b r => h.byOpcode_eq_some_iff
  case absent => exact fun b => Optab.byOpcode_eq_none_iff_notMem

end Sys2Proof
end

section
/-! PROOFS. The address encoder: a word's bytes as base-256 digits (R70). -/

namespace Sys2Proof

/-- Byte `k` of a word is its digit `k` in base 256, least significant first. -/
theorem toNat_byteAt (v : Word) (k : Nat) : (byteAt v k).toNat = v.toNat / 256 ^ k % 256 := by
  have hpow : 2 ^ (8 * k) = 256 ^ k := Nat.pow_mul 2 8 k
  rw [byteAt, BitVec.extractLsb'_toNat, Nat.shiftRight_eq_div_pow, hpow]

open Machine

/-- Settles O1: byte `k` of `encode24` is the word's digit `k` in base 256; the worked example is computed. -/
theorem encode24GivesTheLowBytesLeastSignificantFirst : Obligations.Encode24GivesTheLowBytesLeastSignificantFirst := by
  refine ⟨fun v => ⟨?b0, ?b1, ?b2⟩, ?worked⟩
  case b0 => simpa [encode24] using toNat_byteAt v 0
  case b1 => simpa [encode24] using toNat_byteAt v 1
  case b2 => simpa [encode24] using toNat_byteAt v 2
  case worked => decide

end Sys2Proof
end

section
/-! PROOFS. The serializer and the frame length: what each answers in every case of the row looked up (R85, R86), which
frames and lengths can come out at all, and the contents of a frame (R88). -/

namespace Sys2Proof

/-- R88: no frame has more than four bytes, whoever made it. -/
theorem Frame.bytes_length_le_four (f : Frame) : f.bytes.length ≤ 4 := by
  cases f with
  | np op => simp [Frame.bytes]
  | a24 op a => simp [Frame.bytes]

namespace Machine

section Rows

variable {T : Optab} {i : Nat} {r : Row}

/-- R84: an identifier of no row is UnsupportedCommand. -/
theorem serialize_of_byId_none (hr : T.byId i = none) (v : Word) : serialize T i v = .err .unsupportedCommand := by
  simp [serialize, hr]

/-- A row of shape Addr32, which R86 gives no outcome, is UnsupportedCommand in the model (assumption 9). -/
theorem serialize_of_addr32 (hr : T.byId i = some r) (hs : r.shape = .addr32) (v : Word) :
    serialize T i v = .err .unsupportedCommand := by
  simp [serialize, hr, hs]

/-- R85, an identifier of no row: the failure of R84. -/
theorem frameLength_of_byId_none (hr : T.byId i = none) : frameLength T i = .err .unsupportedCommand := by
  simp [frameLength, hr]

/-- R85, a row of shape NoPayload. -/
theorem frameLength_of_noPayload (hr : T.byId i = some r) (hs : r.shape = .noPayload) : frameLength T i = .ok 1 := by
  simp [frameLength, hr, hs]

/-- R85, a row of shape Addr24. -/
theorem frameLength_of_addr24 (hr : T.byId i = some r) (hs : r.shape = .addr24) : frameLength T i = .ok 4 := by
  simp [frameLength, hr, hs]

/-- A row of shape Addr32, which R85 gives no outcome, is UnsupportedCommand in the model (assumption 9). -/
theorem frameLength_of_addr32 (hr : T.byId i = some r) (hs : r.shape = .addr32) :
    frameLength T i = .err .unsupportedCommand := by
  simp [frameLength, hr, hs]

/-- Every frame comes from a row: of shape NoPayload, its opcode alone, or of shape Addr24, its opcode and the encoded
address. -/
theorem serialize_ok_inv {v : Word} {f : Frame} (h : serialize T i v = .ok f) :
    ∃ r, T.byId i = some r ∧
      ((r.shape = .noPayload ∧ f = .np r.opcode) ∨ (r.shape = .addr24 ∧ f = .a24 r.opcode (encode24 v))) := by
  cases hr : T.byId i with
  | none => simp [serialize_of_byId_none hr] at h
  | some r =>
    refine ⟨r, rfl, ?_⟩
    cases hs : r.shape with
    | noPayload => simpa [serialize_of_noPayload hr hs, eq_comm] using h
    | addr24 => simpa [serialize_of_addr24 hr hs, eq_comm] using h
    | addr32 => simp [serialize_of_addr32 hr hs] at h

/-- Every length comes from a row: 1 from shape NoPayload, 4 from shape Addr24. -/
theorem frameLength_ok_inv {n : Nat} (h : frameLength T i = .ok n) :
    ∃ r, T.byId i = some r ∧ ((r.shape = .noPayload ∧ n = 1) ∨ (r.shape = .addr24 ∧ n = 4)) := by
  cases hr : T.byId i with
  | none => simp [frameLength_of_byId_none hr] at h
  | some r =>
    refine ⟨r, rfl, ?_⟩
    cases hs : r.shape with
    | noPayload => simpa [frameLength_of_noPayload hr hs, eq_comm] using h
    | addr24 => simpa [frameLength_of_addr24 hr hs, eq_comm] using h
    | addr32 => simp [frameLength_of_addr32 hr hs] at h

/-- Byte 0 of every frame is the opcode of a row of the table (R88), in any table. -/
theorem serialize_ok_opcode {v : Word} {f : Frame} (h : serialize T i v = .ok f) : ∃ r ∈ T, f.opcode = r.opcode := by
  obtain ⟨r, hr, ⟨-, rfl⟩ | ⟨-, rfl⟩⟩ := serialize_ok_inv h
  · exact ⟨r, (Optab.byId_some hr).1, rfl⟩
  · exact ⟨r, (Optab.byId_some hr).1, rfl⟩

/-- The bytes of every frame: the opcode alone, or the opcode and the address bytes (R88), in any table. -/
theorem serialize_ok_bytes {v : Word} {f : Frame} (h : serialize T i v = .ok f) :
    f.bytes = [f.opcode] ∨ f.bytes = [f.opcode, (encode24 v).b0, (encode24 v).b1, (encode24 v).b2] := by
  obtain ⟨r, -, ⟨-, rfl⟩ | ⟨-, rfl⟩⟩ := serialize_ok_inv h
  · exact .inl rfl
  · exact .inr rfl

end Rows

end Machine

open Machine

/-- Settles O13: every frame is made from a row of the table, and admissibility (R56 c) keeps 0xFF out of its opcodes. -/
theorem aFrameHoldsNothingButOpcodeAndAddress : Obligations.AFrameHoldsNothingButOpcodeAndAddress := by
  intro w reserved T hT i v f hf
  obtain ⟨r, hr, hop⟩ := serialize_ok_opcode hf
  refine ⟨?inTable, ?notFF, f.bytes_length_le_four, serialize_ok_bytes hf⟩
  case inTable => exact hop ▸ List.mem_map_of_mem hr
  case notFF => exact hop ▸ hT.opcode_ne_ff r hr

/-- Settles O10: each branch of R86 is the equation for its case; the worked examples are rows 0, 3 and 4 of the default
table. -/
theorem serializeFollowsTheShapeOfTheRow : Obligations.SerializeFollowsTheShapeOfTheRow := by
  intro T i v
  refine ⟨?noRow, ?noPayload, ?addr24, ?readJEDECID, ?readData, ?pageProgram⟩
  case noRow => exact fun hr => serialize_of_byId_none hr v
  case noPayload => exact fun r hr hs => serialize_of_noPayload hr hs v
  case addr24 => exact fun r hr hs => serialize_of_addr24 hr hs v
  case readJEDECID => rfl
  case readData => decide
  case pageProgram => decide

/-- Settles O11: each branch of R85 is the equation for its case, and a length comes only from one of the two shapes. -/
theorem frameLengthFollowsTheShapeOfTheRow : Obligations.FrameLengthFollowsTheShapeOfTheRow := by
  intro T i
  refine ⟨frameLength_of_byId_none, ?noPayload, ?addr24, ?noOther, ?readJEDECID, ?readData⟩
  case noPayload => exact fun r hr hs => frameLength_of_noPayload hr hs
  case addr24 => exact fun r hr hs => frameLength_of_addr24 hr hs
  case noOther =>
    intro n h
    obtain ⟨r, -, ⟨-, hn⟩ | ⟨-, hn⟩⟩ := frameLength_ok_inv h
    · exact .inl hn
    · exact .inr hn
  case readJEDECID => decide
  case readData => decide

end Sys2Proof
end

section
/-! PROOFS. The deserializer: what it answers in each cell of R98's table of row shape against argument. -/

namespace Sys2Proof

namespace Machine

section Rows

variable {T : Optab} {b : Byte} {r : Row}

/-- R96, a row of shape NoPayload: an address of 24 bits is unexpected. -/
theorem deserialize_of_noPayload_a24 (hr : T.byOpcode b = some r) (hs : r.shape = .noPayload) (v : Word) :
    deserialize T b (.a24 v) = .err .unexpectedAddress := by
  simp [deserialize, hr, hs]

/-- R96, a row of shape NoPayload: an address of 32 bits is unexpected. -/
theorem deserialize_of_noPayload_a32 (hr : T.byOpcode b = some r) (hs : r.shape = .noPayload) (v : Word) :
    deserialize T b (.a32 v) = .err .unexpectedAddress := by
  simp [deserialize, hr, hs]

/-- R96, a row of shape Addr24: the address is missing. -/
theorem deserialize_of_addr24_absent (hr : T.byOpcode b = some r) (hs : r.shape = .addr24) :
    deserialize T b .absent = .err .missingAddress := by
  simp [deserialize, hr, hs]

/-- R97, R99, a row of shape Addr24 and an address of its width: the row's Command with the canonical address. -/
theorem deserialize_of_addr24_a24 (hr : T.byOpcode b = some r) (hs : r.shape = .addr24) (v : Word) :
    deserialize T b (.a24 v) = .ok ⟨r.id, some (canon24 v)⟩ := by
  simp [deserialize, hr, hs]

/-- R96, a row of shape Addr24: an address of 32 bits has the wrong width. -/
theorem deserialize_of_addr24_a32 (hr : T.byOpcode b = some r) (hs : r.shape = .addr24) (v : Word) :
    deserialize T b (.a32 v) = .err .addressWidthMismatch := by
  simp [deserialize, hr, hs]

/-- R98's comment on a row of shape Addr32: the address is missing. -/
theorem deserialize_of_addr32_absent (hr : T.byOpcode b = some r) (hs : r.shape = .addr32) :
    deserialize T b .absent = .err .missingAddress := by
  simp [deserialize, hr, hs]

/-- R98's comment on a row of shape Addr32: an address of 24 bits has the wrong width. -/
theorem deserialize_of_addr32_a24 (hr : T.byOpcode b = some r) (hs : r.shape = .addr32) (v : Word) :
    deserialize T b (.a24 v) = .err .addressWidthMismatch := by
  simp [deserialize, hr, hs]

/-- R98's comment on a row of shape Addr32 and an address of its width: the row's Command with the address as it is. -/
theorem deserialize_of_addr32_a32 (hr : T.byOpcode b = some r) (hs : r.shape = .addr32) (v : Word) :
    deserialize T b (.a32 v) = .ok ⟨r.id, some v⟩ := by
  simp [deserialize, hr, hs]

end Rows

end Machine

open Machine

/-- Settles O17: each cell of R98's table is the equation for its row shape and argument; the worked examples are computed
on the default table. -/
theorem deserializeFollowsTheMatrix : Obligations.DeserializeFollowsTheMatrix := by
  intro T b v
  refine ⟨?noRow, ?noPayload, ?addr24, ?addr32, ?readJEDECID, ?readData, ?unknown⟩
  case noRow => exact fun arg hb => deserialize_of_byOpcode_none hb arg
  case noPayload =>
    exact fun r hr hs => ⟨deserialize_of_noPayload_absent hr hs, deserialize_of_noPayload_a24 hr hs v,
      deserialize_of_noPayload_a32 hr hs v⟩
  case addr24 =>
    exact fun r hr hs => ⟨deserialize_of_addr24_absent hr hs, deserialize_of_addr24_a24 hr hs v,
      deserialize_of_addr24_a32 hr hs v⟩
  case addr32 =>
    exact fun r hr hs => ⟨deserialize_of_addr32_absent hr hs, deserialize_of_addr32_a24 hr hs v,
      deserialize_of_addr32_a32 hr hs v⟩
  case readJEDECID => decide
  case readData => decide
  case unknown => decide

end Sys2Proof
end

section
/-! PROOFS. The serializer and deserializer ports at a no-payload row (R30, R89, R102), and the command ReadJEDECID
(R110). -/

namespace Sys2Proof

/-- R30: the frame word of a one-byte frame is its opcode, with zeros above. -/
theorem Frame.word_np (op : Byte) : (Frame.np op).word = op.zeroExtend 32 :=
  calc (Frame.np op).word = (0#8 ++ 0#8) ++ (0#8 ++ op) := rfl
    _ = ((0#8 ++ 0#8) ++ 0#8) ++ op := BitVec.append_assoc'
    _ = op.zeroExtend 32 := (BitVec.setWidth_eq_append (x := op) (w := 32) (by decide)).symm

namespace Machine

section Rows

variable {w : Nat} {T : Optab} {r : Row}

/-- R89, a row of shape NoPayload: its opcode as a frame of length 1, whatever `ser_addr` is. -/
theorem serUnit_of_noPayload {i : CmdId w} (hr : T.byId i.toNat = some r) (hs : r.shape = .noPayload) (v : Word) :
    serUnit T ⟨i, v⟩ = ⟨r.opcode.zeroExtend 32, 1, 0⟩ := by
  rw [serUnit, serialize_of_noPayload hr hs, serOutOf, Frame.word_np]
  rfl

/-- R102, a row of shape NoPayload and no address present: its identifier, whatever the other address ports are. -/
theorem desUnit_of_noPayload_absent {b : Byte} (hr : T.byOpcode b = some r) (hs : r.shape = .noPayload) (is32 : Bool)
    (v : Word) : (desUnit T ⟨b, false, is32, v⟩ : DesOut w) = ⟨0, BitVec.ofNat w r.id, 0⟩ := by
  rw [desUnit, addrArgOfPorts, deserialize_of_noPayload_absent hr hs]
  rfl

end Rows

end Machine

open Machine

/-- Settles O24: both lookups of the default table find one row, of shape NoPayload, at identifier 0 and at opcode 0x9F;
each outcome is the equation for that shape. -/
theorem readJEDECIDIsSpelled9F : Obligations.ReadJEDECIDIsSpelled9F := by
  have hid : OPTAB.byId 0 = some ⟨0, .readJEDECID, .noPayload, 0x9F#8⟩ := by decide
  have hop : OPTAB.byOpcode 0x9F#8 = some ⟨0, .readJEDECID, .noPayload, 0x9F#8⟩ := by decide
  refine ⟨?serialize, ?frameLength, ?absent, ?a24, ?a32, ?serPorts, ?desPorts⟩
  case serialize => exact serialize_of_noPayload hid rfl
  case frameLength => exact frameLength_of_noPayload hid rfl
  case absent => exact deserialize_of_noPayload_absent hop rfl
  case a24 => exact deserialize_of_noPayload_a24 hop rfl
  case a32 => exact deserialize_of_noPayload_a32 hop rfl
  case serPorts => exact serUnit_of_noPayload (i := 0) hid rfl
  case desPorts => exact desUnit_of_noPayload_absent hop rfl

end Sys2Proof
end

section
/-! PROOFS. The frame word and the serializer ports at an address-carrying row (R30, R51, R89), and the commands ReadData
(R113) and PageProgram (R114). -/

namespace Sys2Proof

/-- R30, R51: the frame word of a four-byte frame is the address of its three address bytes, above the opcode. -/
theorem Frame.word_a24 (op : Byte) (a : Bytes3) :
    (Frame.a24 op a).word = (wordOfBytes3 a <<< 8) ||| op.zeroExtend 32 := by
  ext k hk
  simp only [Frame.word, wordOfBytes3, BitVec.getElem_or, BitVec.getElem_shiftLeft]
  grind

namespace Machine

section Rows

variable {w : Nat} {T : Optab} {r : Row}

/-- R89, a row of shape Addr24: the low 24 bits of `ser_addr` above the opcode, as a frame of length 4. -/
theorem serUnit_of_addr24 {i : CmdId w} (hr : T.byId i.toNat = some r) (hs : r.shape = .addr24) (v : Word) :
    serUnit T ⟨i, v⟩ = ⟨(canon24 v <<< 8) ||| r.opcode.zeroExtend 32, 4, 0⟩ := by
  rw [serUnit, serialize_of_addr24 hr hs, serOutOf, Frame.word_a24, encode24, wordOfBytes3_byteAt]
  rfl

end Rows

end Machine

open Machine

/-- Settles O25: both lookups of the default table find one row, of shape Addr24, at identifier 3 and at opcode 0x03; each
outcome is the equation for that shape, and the corner cases and the worked example are computed. -/
theorem readDataIsSpelled03 : Obligations.ReadDataIsSpelled03 := by
  have hid : OPTAB.byId 3 = some ⟨3, .readData, .addr24, 0x03#8⟩ := by decide
  have hop : OPTAB.byOpcode 0x03#8 = some ⟨3, .readData, .addr24, 0x03#8⟩ := by decide
  refine ⟨?serialize, ?frameLength, ?absent, ?a24, ?a32, ?serPorts, ?zero, ?largest, ?middleByte, ?highByte, ?worked⟩
  case serialize => exact serialize_of_addr24 hid rfl
  case frameLength => exact frameLength_of_addr24 hid rfl
  case absent => exact deserialize_of_addr24_absent hop rfl
  case a24 => exact deserialize_of_addr24_a24 hop rfl
  case a32 => exact deserialize_of_addr24_a32 hop rfl
  case serPorts => exact serUnit_of_addr24 (i := 3#CMD_ID_W) hid rfl
  case zero => decide
  case largest => decide
  case middleByte => decide
  case highByte => decide
  case worked => decide

/-- Settles O26: both lookups of the default table find one row, of shape Addr24, at identifier 4 and at opcode 0x02; each
outcome is the equation for that shape, and the worked example is computed. -/
theorem pageProgramIsSpelled02 : Obligations.PageProgramIsSpelled02 := by
  have hid : OPTAB.byId 4 = some ⟨4, .pageProgram, .addr24, 0x02#8⟩ := by decide
  have hop : OPTAB.byOpcode 0x02#8 = some ⟨4, .pageProgram, .addr24, 0x02#8⟩ := by decide
  refine ⟨?serialize, ?frameLength, ?absent, ?a24, ?a32, ?serPorts, ?workedFrame, ?workedWord⟩
  case serialize => exact serialize_of_addr24 hid rfl
  case frameLength => exact frameLength_of_addr24 hid rfl
  case absent => exact deserialize_of_addr24_absent hop rfl
  case a24 => exact deserialize_of_addr24_a24 hop rfl
  case a32 => exact deserialize_of_addr24_a32 hop rfl
  case serPorts => exact serUnit_of_addr24 (i := 4#CMD_ID_W) hid rfl
  case workedFrame => decide
  case workedWord => decide

end Sys2Proof
end

section
/-! PROOFS. The error kinds: when the serializer, the frame length and the deserializer fail over an admissible table, and
with which error (R121 to R125). -/

namespace Sys2Proof

section Lookups

variable {w : Nat} {reserved : List Byte} {T : Optab}

/-- R56 (d): the forward lookup answers no row of shape Addr32. -/
theorem Optab.Admissible.byId_shape (h : T.Admissible w reserved) {i : Nat} {r : Row} (hr : T.byId i = some r) :
    r.shape ≠ .addr32 :=
  h.shape_ne_addr32 r (Optab.byId_some hr).1

/-- R56 (d): the reverse lookup answers no row of shape Addr32. -/
theorem Optab.Admissible.byOpcode_shape (h : T.Admissible w reserved) {b : Byte} {r : Row} (hr : T.byOpcode b = some r) :
    r.shape ≠ .addr32 :=
  h.shape_ne_addr32 r (Optab.byOpcode_some hr).1

/-- R61, R56 (g): a reserved byte has no row. -/
theorem Optab.Admissible.byOpcode_reserved (h : T.Admissible w reserved) {b : Byte} (hb : b ∈ reserved) :
    T.byOpcode b = none :=
  Optab.byOpcode_none.2 fun r hr hop => h.opcode_not_reserved r hr (hop ▸ hb)

end Lookups

namespace Machine

section Errors

variable {w : Nat} {reserved : List Byte} {T : Optab}

/-- R121: the serializer fails exactly on an identifier of no row, with UnsupportedCommand. -/
theorem serialize_err_iff (hT : T.Admissible w reserved) {i : Nat} {v : Word} {e : Error} :
    serialize T i v = .err e ↔ e = .unsupportedCommand ∧ T.byId i = none := by
  cases hr : T.byId i with
  | none => simp [serialize_of_byId_none hr, eq_comm]
  | some r =>
    cases hs : r.shape with
    | noPayload => simp [serialize_of_noPayload hr hs]
    | addr24 => simp [serialize_of_addr24 hr hs]
    | addr32 => exact absurd hs (hT.byId_shape hr)

/-- R121: the frame length fails exactly where the serializer does, with the same error. -/
theorem frameLength_err_iff (hT : T.Admissible w reserved) {i : Nat} {e : Error} :
    frameLength T i = .err e ↔ e = .unsupportedCommand ∧ T.byId i = none := by
  cases hr : T.byId i with
  | none => simp [frameLength_of_byId_none hr, eq_comm]
  | some r =>
    cases hs : r.shape with
    | noPayload => simp [frameLength_of_noPayload hr hs]
    | addr24 => simp [frameLength_of_addr24 hr hs]
    | addr32 => exact absurd hs (hT.byId_shape hr)

/-- The condition under which the rules R121 to R125 have the deserializer raise each error, on byte `b` and argument
`arg`; R121 has it never raise UnsupportedCommand. -/
def DeserializeFailsWith (T : Optab) (b : Byte) (arg : AddrArg) : Error → Prop
  | .unsupportedCommand => False
  | .unknownOpcode => T.byOpcode b = none
  | .missingAddress => ∃ r, T.byOpcode b = some r ∧ r.shape = .addr24 ∧ arg = .absent
  | .unexpectedAddress =>
    ∃ r, T.byOpcode b = some r ∧ r.shape = .noPayload ∧ ((∃ v, arg = .a24 v) ∨ ∃ v, arg = .a32 v)
  | .addressWidthMismatch => ∃ r, T.byOpcode b = some r ∧ r.shape = .addr24 ∧ ∃ v, arg = .a32 v

/-- R121 to R125: the deserializer fails exactly under the condition of the error's rule. -/
theorem deserialize_err_iff (hT : T.Admissible w reserved) {b : Byte} {arg : AddrArg} {e : Error} :
    deserialize T b arg = .err e ↔ DeserializeFailsWith T b arg e := by
  cases hr : T.byOpcode b with
  | none => cases e <;> simp [deserialize_of_byOpcode_none hr, DeserializeFailsWith, hr]
  | some r =>
    cases hs : r.shape with
    | noPayload =>
      cases arg with
      | absent => cases e <;> simp [deserialize_of_noPayload_absent hr hs, DeserializeFailsWith, hr, hs]
      | a24 v => cases e <;> simp [deserialize_of_noPayload_a24 hr hs, DeserializeFailsWith, hr, hs]
      | a32 v => cases e <;> simp [deserialize_of_noPayload_a32 hr hs, DeserializeFailsWith, hr, hs]
    | addr24 =>
      cases arg with
      | absent => cases e <;> simp [deserialize_of_addr24_absent hr hs, DeserializeFailsWith, hr, hs]
      | a24 v => cases e <;> simp [deserialize_of_addr24_a24 hr hs, DeserializeFailsWith, hr, hs]
      | a32 v => cases e <;> simp [deserialize_of_addr24_a32 hr hs, DeserializeFailsWith, hr, hs]
    | addr32 => exact absurd hs (hT.byOpcode_shape hr)

end Errors

end Machine

open Machine

/-- Settles O18: the conditions are the three `err_iff` equivalences, where R56 (d) rules the shape Addr32 out; R56 (g)
leaves a reserved byte without a row; the rules' examples are computed on the default table. -/
theorem eachErrorArisesUnderExactlyItsCondition : Obligations.EachErrorArisesUnderExactlyItsCondition := by
  intro w reserved T hT
  refine ⟨?serialize, ?frameLength, ?reserved, ?unknown, ?missing, ?unexpected, ?mismatch, ?deserialize⟩
  case serialize => exact fun i v e => serialize_err_iff hT
  case frameLength => exact fun i e => frameLength_err_iff hT
  case reserved => exact fun b hb => deserialize_of_byOpcode_none (hT.byOpcode_reserved hb)
  case unknown => decide
  case missing => decide
  case unexpected => decide
  case mismatch => decide
  case deserialize =>
    exact fun b arg => ⟨(deserialize_err_iff hT).1, deserialize_err_iff hT, deserialize_err_iff hT,
      deserialize_err_iff hT, deserialize_err_iff hT⟩

end Sys2Proof
end

section
/-! PROOFS. The address encoder and its companions: what packing a word's bytes on the AENC ports gives, which words have the
same three bytes, and the inverse laws (R70 to R75). -/

namespace Sys2Proof

namespace Machine

/-- R72: the three bytes of a word, packed on the ports, are its low 24 bits. -/
theorem packBytes3_encode24 (v : Word) : packBytes3 (encode24 v) = v.extractLsb' 0 24 := by
  ext k hk
  simp only [packBytes3, encode24, byteAt]
  grind

/-- R73: the four bytes of a word, packed on the ports, are the word. -/
theorem packBytes4_encode32 (v : Word) : packBytes4 (encode32 v) = v := by
  ext k hk
  simp only [packBytes4, encode32, byteAt]
  grind

/-- R74 at the ports: the address of three received bytes is their 24 bits, zero-extended. -/
theorem decode24_unpackBytes3 (p : BitVec 24) : decode24 (unpackBytes3 p) = p.zeroExtend 32 := by
  ext k hk
  simp only [decode24, wordOfBytes3, unpackBytes3]
  grind

/-- R74: the extractor on the encoder's bytes gives the canonical stored word. -/
theorem decode24_encode24 (v : Word) : decode24 (encode24 v) = canon24 v := wordOfBytes3_byteAt v

/-- R74: the encoder on the extractor's word gives the bytes back. -/
theorem encode24_decode24 (b : Bytes3) : encode24 (decode24 b) = b := by
  have hpack : packBytes3 (encode24 (decode24 b)) = packBytes3 b := by
    rw [packBytes3_encode24, ← unpackBytes3_packBytes3 b, decode24_unpackBytes3, unpackBytes3_packBytes3]
    ext k hk
    simp only [BitVec.getElem_extractLsb', BitVec.getLsbD_setWidth]
    grind
  rw [← unpackBytes3_packBytes3 (encode24 (decode24 b)), hpack, unpackBytes3_packBytes3]

/-- R75: the 32-bit extractor packs the four bytes as the ports do, and the encoder unpacks them. -/
theorem encode32_decode32 (b : Bytes4) : encode32 (decode32 b) = b := unpackBytes4_packBytes4 b

/-- R75: the 32-bit extractor on the encoder's bytes gives the word, all of it. -/
theorem decode32_encode32 (v : Word) : decode32 (encode32 v) = v := packBytes4_encode32 v

/-- The encoder does not tell a stored word from its canonical form (R18). -/
@[simp] theorem encode24_canon24 (v : Word) : encode24 (canon24 v) = encode24 v := by
  rw [← decode24_encode24, encode24_decode24]

/-- Two words have the same bytes exactly when they are equal as Address24 (R34). -/
theorem encode24_eq_iff {v w : Word} : encode24 v = encode24 w ↔ sameAddr24 v w := by
  constructor
  · intro h
    rw [sameAddr24, ← decode24_encode24, h, decode24_encode24]
  · intro h
    rw [← encode24_canon24 v, h, encode24_canon24]

/-- The canonical stored word is the low 24 bits, zero-extended (R102). -/
theorem canon24_eq_zeroExtend (v : Word) : canon24 v = (v.extractLsb' 0 24).zeroExtend 32 := by
  rw [← decode24_encode24, ← unpackBytes3_packBytes3 (encode24 v), decode24_unpackBytes3, packBytes3_encode24]

/-- Two words have the same bytes exactly when their low 24 bits agree: the bytes determine their packing, and it them. -/
theorem encode24_eq_iff_extractLsb' {v w : Word} :
    encode24 v = encode24 w ↔ v.extractLsb' 0 24 = w.extractLsb' 0 24 := by
  have hinj : Function.Injective packBytes3 := Function.LeftInverse.injective unpackBytes3_packBytes3
  rw [← packBytes3_encode24, ← packBytes3_encode24, hinj.eq_iff]

end Machine

open Machine

/-- Settles O2: the low 24 bits are the packed bytes; the two masks leave them alone; the extractor gives a word of any three
bytes. -/
theorem encode24SeesExactlyTheLow24Bits : Obligations.Encode24SeesExactlyTheLow24Bits := by
  refine ⟨fun v w => encode24_eq_iff_extractLsb', fun v => ⟨?cleared, ?set⟩, ?onto⟩
  case cleared => exact (encode24_canon24 v).symm
  case set => simp [encode24_eq_iff_extractLsb', BitVec.extractLsb'_or]
  case onto => exact fun b => ⟨decode24 b, encode24_decode24 b⟩

/-- Settles O3: each companion undoes its encoder, on the 24-bit side up to the canonical stored word. -/
theorem addressDecodersInvertTheEncoders : Obligations.AddressDecodersInvertTheEncoders :=
  ⟨encode24_decode24, decode24_encode24, encode32_decode32, decode32_encode32⟩

/-- Settles O4: each output of AENC is the packing or the unpacking of its input. -/
theorem aencPortsAreWiring : Obligations.AencPortsAreWiring := fun p =>
  ⟨packBytes3_encode24 p.a24In, packBytes4_encode32 p.a32In, decode24_unpackBytes3 p.x24Bytes,
    packBytes4_encode32 p.x32Bytes⟩

end Sys2Proof
end

section
/-! PROOFS. The serializer and the deserializer over an admissible table: their inversions, that the first is injective and
the second undoes it (R93 to R101), and that the frame length agrees with the serializer. -/

namespace Sys2Proof

/-- R56 (a): two rows of an admissible table with one opcode are one row. -/
theorem Optab.Admissible.eq_of_opcode_eq {w : Nat} {reserved : List Byte} {T : Optab} (hT : T.Admissible w reserved)
    {r r' : Row} (hr : r ∈ T) (hr' : r' ∈ T) (h : r.opcode = r'.opcode) : r = r' :=
  List.inj_on_of_nodup_map hT.opcodes_distinct hr hr' h

/-- R21, at the row of the variant's identifier: a Command of an admissible table has a row, and carries an address exactly
when the row's shape is Addr24. -/
theorem Command.OfTable.byId {w : Nat} {reserved : List Byte} {T : Optab} (hT : T.Admissible w reserved) {c : Command}
    (hc : c.OfTable T) :
    ∃ r, T.byId c.id = some r ∧
      ((r.shape = .noPayload ∧ c = ⟨r.id, none⟩) ∨ (r.shape = .addr24 ∧ ∃ v, c = ⟨r.id, some v⟩)) := by
  obtain ⟨id, addr⟩ := c
  obtain ⟨r, hr, hid, ⟨hs, haddr⟩ | ⟨hs, haddr⟩⟩ := hc
  · exact ⟨r, hid ▸ hT.byId_mem hr, .inl ⟨hs, by rw [hid, ← haddr]⟩⟩
  · obtain ⟨v, hv⟩ := Option.isSome_iff_exists.1 haddr
    exact ⟨r, hid ▸ hT.byId_mem hr, .inr ⟨hs, v, by rw [hid, ← hv]⟩⟩

namespace Machine

section Tables

variable {w : Nat} {reserved : List Byte} {T : Optab}

/-- The serializer has no error but UnsupportedCommand, over any table. -/
theorem serialize_err_inv {i : Nat} {v : Word} {e : Error} (h : serialize T i v = .err e) : e = .unsupportedCommand := by
  cases hr : T.byId i with
  | none => simpa [serialize_of_byId_none hr, eq_comm] using h
  | some r =>
    cases hs : r.shape with
    | noPayload => simp [serialize_of_noPayload hr hs] at h
    | addr24 => simp [serialize_of_addr24 hr hs] at h
    | addr32 => simpa [serialize_of_addr32 hr hs, eq_comm] using h

/-- R93, R97: the deserializer gives a Command exactly where the byte's row fits the argument: shape NoPayload and no
address, or shape Addr24 and an address of 24 bits. -/
theorem deserialize_ok_iff (hT : T.Admissible w reserved) {b : Byte} {arg : AddrArg} {c : Command} :
    deserialize T b arg = .ok c ↔ ∃ r, T.byOpcode b = some r ∧
      ((r.shape = .noPayload ∧ arg = .absent ∧ c = ⟨r.id, none⟩) ∨
       (r.shape = .addr24 ∧ ∃ v, arg = .a24 v ∧ c = ⟨r.id, some (canon24 v)⟩)) := by
  cases hr : T.byOpcode b with
  | none => simp [deserialize_of_byOpcode_none hr]
  | some r =>
    cases hs : r.shape with
    | noPayload =>
      cases arg with
      | absent => simp [deserialize_of_noPayload_absent hr hs, hs, eq_comm]
      | a24 v => simp [deserialize_of_noPayload_a24 hr hs, hs]
      | a32 v => simp [deserialize_of_noPayload_a32 hr hs]
    | addr24 =>
      cases arg with
      | absent => simp [deserialize_of_addr24_absent hr hs, hs]
      | a24 v => simp [deserialize_of_addr24_a24 hr hs, hs, eq_comm]
      | a32 v => simp [deserialize_of_addr24_a32 hr hs]
    | addr32 => exact absurd hs (hT.byOpcode_shape hr)

/-- What the deserializer gives is a Command of the table (R21), in canonical form (R99). -/
theorem deserialize_ok_ofTable (hT : T.Admissible w reserved) {b : Byte} {arg : AddrArg} {c : Command}
    (h : deserialize T b arg = .ok c) : c.OfTable T ∧ canonCommand c = c := by
  obtain ⟨r, hr, ⟨hs, -, rfl⟩ | ⟨hs, v, -, rfl⟩⟩ := (deserialize_ok_iff hT).1 h
  · exact ⟨⟨r, (Optab.byOpcode_some hr).1, rfl, .inl ⟨hs, rfl⟩⟩, rfl⟩
  · exact ⟨⟨r, (Optab.byOpcode_some hr).1, rfl, .inr ⟨hs, rfl⟩⟩, by simp [canonCommand]⟩

/-- R57, R86: every row of an admissible table is serialized, to a frame that begins with its opcode. -/
theorem serialize_row (hT : T.Admissible w reserved) {r : Row} (hr : r ∈ T) (v : Word) :
    ∃ f, serialize T r.id v = .ok f ∧ f.opcode = r.opcode := by
  cases hs : r.shape with
  | noPayload => exact ⟨_, serialize_of_noPayload (hT.byId_mem hr) hs v, rfl⟩
  | addr24 => exact ⟨_, serialize_of_addr24 (hT.byId_mem hr) hs v, rfl⟩
  | addr32 => exact absurd hs (hT.shape_ne_addr32 r hr)

/-- R101, the converse: what the deserializer gives is serialized to a frame that begins with the same byte. -/
theorem serializeCommand_of_deserialize (hT : T.Admissible w reserved) {b : Byte} {arg : AddrArg} {c : Command}
    (h : deserialize T b arg = .ok c) : ∃ f, serializeCommand T c = .ok f ∧ f.opcode = b := by
  obtain ⟨r, hr, hcase⟩ := (deserialize_ok_iff hT).1 h
  obtain ⟨hmem, rfl⟩ := Optab.byOpcode_some hr
  have hid : c.id = r.id := by obtain ⟨-, -, rfl⟩ | ⟨-, v, -, rfl⟩ := hcase <;> rfl
  rw [serializeCommand, hid]
  exact serialize_row hT hmem _

/-- The serializer reads the address only as an Address24, over any table (R18). -/
theorem serialize_congr_addr (i : Nat) {v v' : Word} (h : sameAddr24 v v') : serialize T i v = serialize T i v' := by
  rw [serialize, serialize, encode24_eq_iff.2 h]

/-- The deserializer reads a 24-bit address only as an Address24, over any table (R99). -/
theorem deserialize_congr_a24 (b : Byte) {v v' : Word} (h : sameAddr24 v v') :
    deserialize T b (.a24 v) = deserialize T b (.a24 v') := by
  have h' : canon24 v = canon24 v' := h
  cases hr : T.byOpcode b with
  | none => rw [deserialize_of_byOpcode_none hr, deserialize_of_byOpcode_none hr]
  | some r =>
    cases hs : r.shape with
    | noPayload => rw [deserialize_of_noPayload_a24 hr hs, deserialize_of_noPayload_a24 hr hs]
    | addr24 => rw [deserialize_of_addr24_a24 hr hs, deserialize_of_addr24_a24 hr hs, h']
    | addr32 => rw [deserialize_of_addr32_a24 hr hs, deserialize_of_addr32_a24 hr hs]

/-- R98, D16: the deserializer does not read a 32-bit address, over an admissible table. -/
theorem deserialize_congr_a32 (hT : T.Admissible w reserved) (b : Byte) (v v' : Word) :
    deserialize T b (.a32 v) = deserialize T b (.a32 v') := by
  cases hr : T.byOpcode b with
  | none => rw [deserialize_of_byOpcode_none hr, deserialize_of_byOpcode_none hr]
  | some r =>
    cases hs : r.shape with
    | noPayload => rw [deserialize_of_noPayload_a32 hr hs, deserialize_of_noPayload_a32 hr hs]
    | addr24 => rw [deserialize_of_addr24_a32 hr hs, deserialize_of_addr24_a32 hr hs]
    | addr32 => exact absurd hs (hT.byOpcode_shape hr)

end Tables

end Machine

open Machine

/-- Settles O20: a frame begins with its row's opcode, by which the reverse lookup finds the row again; the address bytes
come back as the canonical stored word. -/
theorem deserializeUndoesSerialize : Obligations.DeserializeUndoesSerialize := by
  intro w reserved T hT
  refine ⟨?noPayload, ?addr24, fun b arg c => serializeCommand_of_deserialize hT⟩
  case noPayload =>
    exact fun r hr hs v => ⟨_, serialize_of_noPayload (hT.byId_mem hr) hs v,
      deserialize_of_noPayload_absent (hT.byOpcode_mem hr) hs⟩
  case addr24 =>
    intro r hr hs v
    have hread : ∀ u, deserialize T r.opcode (.a24 u) = .ok ⟨r.id, some (canon24 u)⟩ :=
      deserialize_of_addr24_a24 (hT.byOpcode_mem hr) hs
    refine ⟨r.opcode, encode24 v, serialize_of_addr24 (hT.byId_mem hr) hs v, hread v, ?throughBytes, ?same⟩
    case throughBytes => rw [decode24_encode24, hread, canon24_canon24]
    case same => simp [sameCommand]

/-- Settles O14: equal frames begin with one opcode, so the rows are one; of shape Addr24, their address bytes agree exactly
when the words do as Address24. -/
theorem serializeIsInjectiveOnCommands : Obligations.SerializeIsInjectiveOnCommands := by
  intro w reserved T hT r hr r' hr' v v'
  constructor
  · intro h
    have hrow : r = r' := by
      obtain ⟨f, hf, hop⟩ := serialize_row hT hr v
      obtain ⟨f', hf', hop'⟩ := serialize_row hT hr' v'
      obtain rfl : f = f' := by simpa [hf, hf'] using h
      exact hT.eq_of_opcode_eq hr hr' (hop.symm.trans hop')
    subst hrow
    refine ⟨rfl, fun hs => encode24_eq_iff.1 ?_⟩
    simpa [serialize_of_addr24 (hT.byId_mem hr) hs] using h
  · rintro ⟨rfl, hsame⟩
    cases hs : r.shape with
    | noPayload => simp [serialize_of_noPayload (hT.byId_mem hr) hs]
    | addr24 => exact serialize_congr_addr r.id (hsame hs)
    | addr32 => exact absurd hs (hT.shape_ne_addr32 r hr)

/-- Settles O19: the deserializer succeeds on no 32-bit argument, and answers every one of them alike. -/
theorem an32BitArgumentNeverGivesACommand : Obligations.An32BitArgumentNeverGivesACommand := by
  intro w reserved T hT b v v'
  refine ⟨fun c hc => ?never, deserialize_congr_a32 hT b v v'⟩
  obtain ⟨r, -, ⟨-, harg, -⟩ | ⟨-, u, harg, -⟩⟩ := (deserialize_ok_iff hT).1 hc
  · cases harg
  · cases harg

/-- Settles O12: both look up one row and answer by its shape alone. -/
theorem frameLengthAgreesWithSerialize : Obligations.FrameLengthAgreesWithSerialize := by
  intro T i v
  cases hr : T.byId i with
  | none => simp [serialize_of_byId_none hr, frameLength_of_byId_none hr]
  | some r =>
    cases hs : r.shape with
    | noPayload => simp [serialize_of_noPayload hr hs, frameLength_of_noPayload hr hs, Frame.bytes]
    | addr24 => simp [serialize_of_addr24 hr hs, frameLength_of_addr24 hr hs, Frame.bytes]
    | addr32 => simp [serialize_of_addr32 hr hs, frameLength_of_addr32 hr hs]

end Sys2Proof
end

section
/-! PROOFS. The ports of SER, FLEN and DES: what each unit answers row by row, that every answer is sane, and which inputs a
unit ignores (R25, R28, R89, R102, R129). -/

namespace Sys2Proof

/-- R56 (f): the identifier ports carry the identifier of every row of an admissible table whole. -/
theorem Optab.Admissible.toNat_ofNat_id {w : Nat} {reserved : List Byte} {T : Optab} (hT : T.Admissible w reserved)
    {r : Row} (hr : r ∈ T) : (BitVec.ofNat w r.id).toNat = r.id := by
  rw [BitVec.toNat_ofNat, Nat.mod_eq_of_lt (hT.id_fits r hr)]

/-- R30, R50: the lowest byte of a frame word is the frame's opcode. -/
theorem Frame.byteAt_word_zero (f : Frame) : byteAt f.word 0 = f.opcode := by
  cases f with
  | np op =>
    ext k hk
    simp only [Frame.word, Frame.opcode, byteAt]
    grind
  | a24 op a =>
    ext k hk
    simp only [Frame.word, Frame.opcode, byteAt]
    grind

namespace Machine

section Rows

variable {w : Nat} {T : Optab} {i : CmdId w} {b : Byte} {r : Row}

/-- R89, an identifier of no row: the error code with zeros beside it. -/
theorem serUnit_of_byId_none (hr : T.byId i.toNat = none) (v : Word) : serUnit T ⟨i, v⟩ = ⟨0, 0, 1⟩ := by
  rw [serUnit, serialize_of_byId_none hr]
  rfl

/-- R89, an identifier of no row: the error code with length zero. -/
theorem flenUnit_of_byId_none (hr : T.byId i.toNat = none) : flenUnit T ⟨i⟩ = ⟨0, 1⟩ := by
  rw [flenUnit, frameLength_of_byId_none hr]
  rfl

/-- R89, a row of shape NoPayload. -/
theorem flenUnit_of_noPayload (hr : T.byId i.toNat = some r) (hs : r.shape = .noPayload) :
    flenUnit T ⟨i⟩ = ⟨1, 0⟩ := by
  rw [flenUnit, frameLength_of_noPayload hr hs]
  rfl

/-- R89, a row of shape Addr24. -/
theorem flenUnit_of_addr24 (hr : T.byId i.toNat = some r) (hs : r.shape = .addr24) : flenUnit T ⟨i⟩ = ⟨4, 0⟩ := by
  rw [flenUnit, frameLength_of_addr24 hr hs]
  rfl

/-- R102, a byte of no row: code 2, whatever the other ports are. -/
theorem desUnit_of_byOpcode_none (hb : T.byOpcode b = none) (present is32 : Bool) (v : Word) :
    (desUnit T ⟨b, present, is32, v⟩ : DesOut w) = ⟨2, 0, 0⟩ := by
  rw [desUnit, deserialize_of_byOpcode_none hb]
  rfl

/-- R102, a row of shape NoPayload and an address present: code 4, whatever its width. -/
theorem desUnit_of_noPayload_present (hr : T.byOpcode b = some r) (hs : r.shape = .noPayload) (is32 : Bool) (v : Word) :
    (desUnit T ⟨b, true, is32, v⟩ : DesOut w) = ⟨4, 0, 0⟩ := by
  cases is32 with
  | false =>
    rw [desUnit, addrArgOfPorts, deserialize_of_noPayload_a24 hr hs]
    rfl
  | true =>
    rw [desUnit, addrArgOfPorts, deserialize_of_noPayload_a32 hr hs]
    rfl

/-- R102, a row of shape Addr24 and no address present: code 3. -/
theorem desUnit_of_addr24_absent (hr : T.byOpcode b = some r) (hs : r.shape = .addr24) (is32 : Bool) (v : Word) :
    (desUnit T ⟨b, false, is32, v⟩ : DesOut w) = ⟨3, 0, 0⟩ := by
  rw [desUnit, addrArgOfPorts, deserialize_of_addr24_absent hr hs]
  rfl

/-- R102, a row of shape Addr24 and an address of 24 bits: the identifier and the low 24 bits. -/
theorem desUnit_of_addr24_a24 (hr : T.byOpcode b = some r) (hs : r.shape = .addr24) (v : Word) :
    (desUnit T ⟨b, true, false, v⟩ : DesOut w) = ⟨0, BitVec.ofNat w r.id, canon24 v⟩ := by
  rw [desUnit, addrArgOfPorts, deserialize_of_addr24_a24 hr hs]
  rfl

/-- R102, a row of shape Addr24 and an address of 32 bits: code 5. -/
theorem desUnit_of_addr24_a32 (hr : T.byOpcode b = some r) (hs : r.shape = .addr24) (v : Word) :
    (desUnit T ⟨b, true, true, v⟩ : DesOut w) = ⟨5, 0, 0⟩ := by
  rw [desUnit, addrArgOfPorts, deserialize_of_addr24_a32 hr hs]
  rfl

end Rows

section Sanity

variable {w : Nat} {reserved : List Byte} {T : Optab}

/-- R88, R89: SER answers a frame of the table or UnsupportedCommand, at every input and over any table. -/
theorem serUnit_sane (p : SerIn w) : (serUnit T p).Sane T := by
  rw [serUnit]
  cases h : serialize T p.cmdId.toNat p.addr with
  | err e => exact .inr (by rw [serialize_err_inv h]; rfl)
  | ok f =>
    obtain ⟨r, hr, ⟨hs, rfl⟩ | ⟨hs, rfl⟩⟩ := serialize_ok_inv h
    · exact .inl ⟨rfl, r, (Optab.byId_some hr).1, .inl ⟨hs, rfl, Frame.word_np r.opcode⟩⟩
    · exact .inl ⟨rfl, r, (Optab.byId_some hr).1, .inr ⟨hs, rfl, Frame.byteAt_word_zero (.a24 r.opcode _)⟩⟩

/-- R85, R89: FLEN answers 1, 4 or UnsupportedCommand, at every input and over any table. -/
theorem flenUnit_sane (p : FlenIn w) : (flenUnit T p).Sane := by
  rw [flenUnit]
  cases hr : T.byId p.cmdId.toNat with
  | none => exact .inr (.inr (by rw [frameLength_of_byId_none hr]; rfl))
  | some r =>
    cases hs : r.shape with
    | noPayload => exact .inl (by rw [frameLength_of_noPayload hr hs]; rfl)
    | addr24 => exact .inr (.inl (by rw [frameLength_of_addr24 hr hs]; rfl))
    | addr32 => exact .inr (.inr (by rw [frameLength_of_addr32 hr hs]; rfl))

/-- R99, R102: DES answers a Command of the table with a canonical address, or one of the four parse errors, at every input
and over every admissible table. -/
theorem desUnit_sane (hT : T.Admissible w reserved) (p : DesIn) : (desUnit T p : DesOut w).Sane T := by
  rw [desUnit]
  cases h : deserialize T p.opcode (addrArgOfPorts p.addrPresent p.addrIs32 p.addr) with
  | ok c =>
    obtain ⟨r, hr, hcase⟩ := (deserialize_ok_iff hT).1 h
    have hmem : r ∈ T := (Optab.byOpcode_some hr).1
    have hid : (BitVec.ofNat w r.id).toNat = r.id := hT.toNat_ofNat_id hmem
    have hzero : canonicalAddr 0#32 = true := by decide
    obtain ⟨hs, -, rfl⟩ | ⟨hs, v, -, rfl⟩ := hcase
    · exact .inl ⟨rfl, hzero, r, hmem, hid, fun _ => rfl⟩
    · exact .inl ⟨rfl, canonicalAddr_canon24 v, r, hmem, hid, fun hnp => by simp [hs] at hnp⟩
  | err e =>
    cases e with
    | unsupportedCommand => exact ((deserialize_err_iff hT).1 h).elim
    | unknownOpcode => exact .inr (.inl rfl)
    | missingAddress => exact .inr (.inr (.inl rfl))
    | unexpectedAddress => exact .inr (.inr (.inr (.inl rfl)))
    | addressWidthMismatch => exact .inr (.inr (.inr (.inr rfl)))

end Sanity

end Machine

open Machine

/-- Settles O15: each case is the equation for its row; `canon24` is the mask. -/
theorem serializerPortValues : Obligations.SerializerPortValues := by
  intro w T i v
  refine ⟨?noRow, ?noPayload, ?addr24⟩
  case noRow => exact fun hr => ⟨serUnit_of_byId_none hr v, flenUnit_of_byId_none hr⟩
  case noPayload => exact fun r hr hs => ⟨serUnit_of_noPayload hr hs v, flenUnit_of_noPayload hr hs⟩
  case addr24 => exact fun r hr hs => ⟨serUnit_of_addr24 hr hs v, flenUnit_of_addr24 hr hs⟩

/-- Settles O16: the identifiers of the default table's rows are 0 to 8. -/
theorem identifiersPastTheTableAreUnsupported : Obligations.IdentifiersPastTheTableAreUnsupported := by
  intro i v
  refine ⟨fun hi => ?past, fun hi => ?within⟩
  case past =>
    have hlast : ∀ r ∈ OPTAB, r.id ≤ 8 := by decide
    have hr : OPTAB.byId i.toNat = none := Optab.byId_none.2 fun r hmem hid => by have := hlast r hmem; omega
    exact ⟨serUnit_of_byId_none hr v, flenUnit_of_byId_none hr⟩
  case within =>
    have hall : ∀ n ≤ 8, (OPTAB.byId n).isSome = true := by decide
    obtain ⟨r, hr⟩ := Option.isSome_iff_exists.1 (hall i.toNat hi)
    cases hs : r.shape with
    | noPayload => simp [serUnit_of_noPayload hr hs, flenUnit_of_noPayload hr hs]
    | addr24 => simp [serUnit_of_addr24 hr hs, flenUnit_of_addr24 hr hs]
    | addr32 => exact absurd hs (OPTAB_admissible.byId_shape hr)

/-- Settles O21: each case is the equation for its row and argument; the address output is the canonical stored word. -/
theorem deserializerPortValues : Obligations.DeserializerPortValues := by
  intro w T op present is32 v
  refine ⟨?noRow, ?noPayload, ?addr24⟩
  case noRow => exact fun hb => desUnit_of_byOpcode_none hb present is32 v
  case noPayload =>
    exact fun r hr hs => ⟨desUnit_of_noPayload_absent hr hs is32 v, desUnit_of_noPayload_present hr hs is32 v⟩
  case addr24 =>
    exact fun r hr hs => ⟨desUnit_of_addr24_absent hr hs is32 v,
      canon24_eq_zeroExtend v ▸ desUnit_of_addr24_a24 hr hs v, desUnit_of_addr24_a32 hr hs v⟩

/-- Settles O22: a sane answer has no error and a length of 1 or 4, or it is a raised error, whose companions are zero. -/
theorem portErrorCodesAndZeroCompanions : Obligations.PortErrorCodesAndZeroCompanions := by
  intro w reserved T hT
  refine ⟨fun p => ?ser, fun p => ?flen, fun p => ?des⟩
  case ser =>
    obtain ⟨herr, r, -, ⟨-, hlen, -⟩ | ⟨-, hlen, -⟩⟩ | h := serUnit_sane (T := T) p
    · exact .inl ⟨herr, .inl hlen⟩
    · exact .inl ⟨herr, .inr hlen⟩
    · exact .inr h
  case flen =>
    obtain h | h | h := flenUnit_sane (T := T) p
    · exact .inl (by simp [h, noError])
    · exact .inl (by simp [h, noError])
    · exact .inr h
  case des =>
    obtain ⟨herr, -⟩ | h | h | h | h := desUnit_sane hT p
    · exact .inl herr
    · exact .inr ⟨2, by decide, by decide, h⟩
    · exact .inr ⟨3, by decide, by decide, h⟩
    · exact .inr ⟨4, by decide, by decide, h⟩
    · exact .inr ⟨5, by decide, by decide, h⟩

/-- Settles O23: an absent address is no argument at all; an Address24 is read through its canonical form; and SER reads an
address only in a row of shape Addr24, where the length is 4. -/
theorem ignoredInputsChangeNoOutput : Obligations.IgnoredInputsChangeNoOutput := by
  intro w reserved T hT
  refine ⟨fun op is32 is32' v v' => rfl, fun op v v' h => ?desHigh, fun i v v' h => ?serHigh, fun i v v' h => ?serAll⟩
  case desHigh => exact congrArg desOutOf (deserialize_congr_a24 op h)
  case serHigh => exact congrArg serOutOf (serialize_congr_addr i.toNat h)
  case serAll =>
    cases hr : T.byId i.toNat with
    | none => rw [serUnit_of_byId_none hr, serUnit_of_byId_none hr]
    | some r =>
      cases hs : r.shape with
      | noPayload => rw [serUnit_of_noPayload hr hs, serUnit_of_noPayload hr hs]
      | addr24 => exact absurd (by rw [serUnit_of_addr24 hr hs]) h
      | addr32 => exact absurd hs (hT.byId_shape hr)

end Sys2Proof
end

section
/-! PROOFS. The nine rows of R55 over any opcode parameters: the row of each instruction, when the table is admissible (R6,
R56), how many bytes a table knows (R58, R60), and the commands whose opcode is a parameter (R111 to R118). -/

namespace Sys2Proof

open Machine

/-- The instruction's opcode byte, among the six parameters and the source's three (R55). -/
def Opcodes.opcodeOf (o : Opcodes) : Instr → Byte
  | .readJEDECID => OPC_READ_JEDEC_ID
  | .writeEnable => o.writeEnable
  | .reset => o.reset
  | .readData _ => OPC_READ_DATA
  | .pageProgram _ => OPC_PAGE_PROGRAM
  | .fastRead _ => o.fastRead
  | .fastReadDualOutput _ => o.fastReadDualOutput
  | .fastReadQuadOutput _ => o.fastReadQuadOutput
  | .readSFDPRegister _ => o.readSFDPRegister

/-- The shape of the instruction's row: it has an address or it has none (R21). -/
def Instr.shape (i : Instr) : Shape := if (addrOf i).isSome then .addr24 else .noPayload

/-- The instruction's row of R55, for any opcode parameters. -/
def Opcodes.rowOf (o : Opcodes) (i : Instr) : Row := ⟨cmdIdOf i, mnemonicOf i, i.shape, o.opcodeOf i⟩

theorem Instr.shape_of_addrOf_none {i : Instr} (h : addrOf i = none) : i.shape = .noPayload := by simp [Instr.shape, h]

theorem Instr.shape_of_addrOf_some {i : Instr} {v : Word} (h : addrOf i = some v) : i.shape = .addr24 := by
  simp [Instr.shape, h]

/-- R56 (d): no instruction carries a 32-bit address. -/
theorem Instr.shape_ne_addr32 (i : Instr) : i.shape ≠ .addr32 := by
  cases h : addrOf i with
  | none => simp [Instr.shape_of_addrOf_none h]
  | some v => simp [Instr.shape_of_addrOf_some h]

/-- R56 (e): each instruction has the shape that its name demands, where the rule names it. -/
theorem Instr.shape_of_requiredShape {i : Instr} {sh : Shape} (h : sh ∈ (mnemonicOf i).requiredShape) : i.shape = sh := by
  revert h
  cases i <;> simp [mnemonicOf, Mnemonic.requiredShape, Instr.shape, addrOf]

/-- R29: the identifiers are 0 to 8. -/
theorem cmdIdOf_lt (i : Instr) : cmdIdOf i < 9 := by
  cases i <;> (simp only [cmdIdOf]; decide)

/-- R55: the table's rows are exactly the instructions' rows. -/
theorem mem_optabOf_iff {o : Opcodes} {r : Row} : r ∈ optabOf o ↔ ∃ i, r = o.rowOf i := by
  constructor
  · intro h
    simp only [optabOf, List.mem_cons, List.not_mem_nil, or_false] at h
    obtain h | h | h | h | h | h | h | h | h := h
    · exact ⟨.readJEDECID, h⟩
    · exact ⟨.writeEnable, h⟩
    · exact ⟨.reset, h⟩
    · exact ⟨.readData 0, h⟩
    · exact ⟨.pageProgram 0, h⟩
    · exact ⟨.fastRead 0, h⟩
    · exact ⟨.fastReadDualOutput 0, h⟩
    · exact ⟨.fastReadQuadOutput 0, h⟩
    · exact ⟨.readSFDPRegister 0, h⟩
  · rintro ⟨i, rfl⟩
    cases i <;> simp [optabOf, Opcodes.rowOf, Opcodes.opcodeOf, Instr.shape, addrOf, cmdIdOf, mnemonicOf]

theorem rowOf_mem (o : Opcodes) (i : Instr) : o.rowOf i ∈ optabOf o := mem_optabOf_iff.2 ⟨i, rfl⟩

/-- R57: the forward lookup finds each instruction's row by its identifier, whatever the opcodes are. -/
theorem optabOf_byId_cmdIdOf (o : Opcodes) (i : Instr) : (optabOf o).byId (cmdIdOf i) = some (o.rowOf i) := by
  cases i <;> rfl

/-- The identifiers of the nine rows are distinct, whatever the opcodes are. -/
theorem optabOf_ids_nodup (o : Opcodes) : ((optabOf o).map Row.id).Nodup := OPTAB_admissible.ids_distinct

/-- R6, R56: the constraints on the parameters are the conditions (a), (c) and (g) on the opcode column; the nine rows meet
the others whatever the opcodes are. -/
theorem optabOf_admissible_iff {reserved : List Byte} {o : Opcodes} :
    (optabOf o).Admissible CMD_ID_W reserved ↔ o.Admissible reserved := by
  constructor
  · intro h
    have hrow : ∀ b ∈ o.all, ∃ r ∈ optabOf o, r.opcode = b := fun b hb => List.mem_map.1 hb
    refine ⟨h.opcodes_distinct, fun hff => ?_, fun b hb => ?_⟩
    · obtain ⟨r, hr, hop⟩ := hrow _ hff
      exact h.opcode_ne_ff r hr hop
    · obtain ⟨r, hr, rfl⟩ := hrow b hb
      exact h.opcode_not_reserved r hr
  · intro h
    have hall : ∀ r ∈ optabOf o, r.opcode ∈ o.all := fun r hr => List.mem_map_of_mem hr
    refine ⟨optabOf_ids_nodup o, h.distinct, ?jedec, ?read, ?program, ?ff, ?addr32, ?named, ?fits, ?reserved⟩
    case jedec => exact ⟨_, rowOf_mem o .readJEDECID, rfl, rfl, rfl⟩
    case read => exact ⟨_, rowOf_mem o (.readData 0), rfl, rfl, rfl⟩
    case program => exact ⟨_, rowOf_mem o (.pageProgram 0), rfl, rfl, rfl⟩
    case ff => exact fun r hr hop => h.ne_ff (hop ▸ hall r hr)
    case reserved => exact fun r hr => h.not_reserved _ (hall r hr)
    case addr32 =>
      intro r hr
      obtain ⟨i, rfl⟩ := mem_optabOf_iff.1 hr
      exact i.shape_ne_addr32
    case named =>
      intro r hr
      obtain ⟨i, rfl⟩ := mem_optabOf_iff.1 hr
      exact fun sh => i.shape_of_requiredShape
    case fits =>
      intro r hr
      obtain ⟨i, rfl⟩ := mem_optabOf_iff.1 hr
      exact (cmdIdOf_lt i).trans (by decide)

theorem Opcodes.Admissible.optab {reserved : List Byte} {o : Opcodes} (h : o.Admissible reserved) :
    (optabOf o).Admissible CMD_ID_W reserved := optabOf_admissible_iff.2 h

section Counting

variable {w : Nat} {reserved : List Byte} {T : Optab}

/-- R54, R56 (b): an admissible table has the source's three opcodes, so three rows or more. -/
theorem Optab.Admissible.three_le_ncmd (hT : T.Admissible w reserved) : 3 ≤ T.ncmd := by
  have hsub : [0x9F#8, 0x03#8, 0x02#8] ⊆ T.map Row.opcode := by
    obtain ⟨r, hr, -, -, hop⟩ := hT.has_readJEDECID
    obtain ⟨r', hr', -, -, hop'⟩ := hT.has_readData
    obtain ⟨r'', hr'', -, -, hop''⟩ := hT.has_pageProgram
    simp only [List.cons_subset, List.nil_subset, List.mem_map, and_true]
    exact ⟨⟨r, hr, hop⟩, ⟨r', hr', hop'⟩, ⟨r'', hr'', hop''⟩⟩
  simpa [Optab.ncmd] using (List.subperm_of_subset (by decide) hsub).length_le

/-- R56 (a), (f): the identifiers are distinct and fit the ports, so there are no more rows than identifiers. -/
theorem Optab.Admissible.ncmd_le (hT : T.Admissible w reserved) : T.ncmd ≤ 2 ^ w := by
  have hsub : T.map Row.id ⊆ List.range (2 ^ w) := by
    intro n hn
    obtain ⟨r, hr, rfl⟩ := List.mem_map.1 hn
    exact List.mem_range.2 (hT.id_fits r hr)
  simpa [Optab.ncmd] using (List.subperm_of_subset hT.ids_distinct hsub).length_le

/-- R58: the bytes that have a row are the opcode column, in another order. -/
theorem Optab.Admissible.knownBytes_perm (hT : T.Admissible w reserved) :
    ((List.range 256).filter fun n => (T.byOpcode (BitVec.ofNat 8 n)).isSome).Perm
      ((T.map Row.opcode).map BitVec.toNat) := by
  refine (List.perm_ext_iff_of_nodup (List.nodup_range.filter _) ?_).2 fun n => ?_
  · exact hT.opcodes_distinct.map fun _ _ => BitVec.eq_of_toNat_eq
  · simp only [List.mem_filter, List.mem_range, Option.isSome_iff_exists, hT.byOpcode_eq_some_iff, List.mem_map,
      exists_exists_and_eq_and]
    constructor
    · rintro ⟨hn, r, hr, hop⟩
      exact ⟨r, hr, by rw [hop, BitVec.toNat_ofNat, Nat.mod_eq_of_lt hn]⟩
    · rintro ⟨r, hr, rfl⟩
      exact ⟨r.opcode.isLt, r, hr, by simp⟩

/-- R60: exactly as many of the 256 bytes are known as the table has rows. -/
theorem Optab.Admissible.length_knownBytes (hT : T.Admissible w reserved) :
    ((List.range 256).filter fun n => (T.byOpcode (BitVec.ofNat 8 n)).isSome).length = T.ncmd := by
  simpa [Optab.ncmd] using hT.knownBytes_perm.length_eq

end Counting

namespace Machine

section Spelling

variable {w : Nat} {reserved : List Byte} {T : Optab} {r : Row}

/-- R110 to R112, for a row of shape NoPayload of any admissible table: the operations at its identifier and its opcode. -/
theorem noPayload_row_spelled (hT : T.Admissible w reserved) (hr : r ∈ T) (hs : r.shape = .noPayload) :
    (∀ v, serialize T r.id v = .ok (.np r.opcode)) ∧ frameLength T r.id = .ok 1 ∧
    deserialize T r.opcode .absent = .ok ⟨r.id, none⟩ ∧
    (∀ v, deserialize T r.opcode (.a24 v) = .err .unexpectedAddress) ∧
    (∀ v, deserialize T r.opcode (.a32 v) = .err .unexpectedAddress) :=
  ⟨serialize_of_noPayload (hT.byId_mem hr) hs, frameLength_of_noPayload (hT.byId_mem hr) hs,
    deserialize_of_noPayload_absent (hT.byOpcode_mem hr) hs, deserialize_of_noPayload_a24 (hT.byOpcode_mem hr) hs,
    deserialize_of_noPayload_a32 (hT.byOpcode_mem hr) hs⟩

/-- R113 to R118, for a row of shape Addr24 of any admissible table: the operations at its identifier and its opcode. -/
theorem addr24_row_spelled (hT : T.Admissible w reserved) (hr : r ∈ T) (hs : r.shape = .addr24) :
    (∀ v, serialize T r.id v = .ok (.a24 r.opcode ⟨byteAt v 0, byteAt v 1, byteAt v 2⟩)) ∧
    frameLength T r.id = .ok 4 ∧
    deserialize T r.opcode .absent = .err .missingAddress ∧
    (∀ v, deserialize T r.opcode (.a24 v) = .ok ⟨r.id, some (v &&& 0x00FFFFFF#32)⟩) ∧
    (∀ v, deserialize T r.opcode (.a32 v) = .err .addressWidthMismatch) :=
  ⟨serialize_of_addr24 (hT.byId_mem hr) hs, frameLength_of_addr24 (hT.byId_mem hr) hs,
    deserialize_of_addr24_absent (hT.byOpcode_mem hr) hs, deserialize_of_addr24_a24 (hT.byOpcode_mem hr) hs,
    deserialize_of_addr24_a32 (hT.byOpcode_mem hr) hs⟩

end Spelling

end Machine

/-- Settles O8: the equivalence, and the default table's admissibility read through it. -/
theorem opcodeParametersMakeAnAdmissibleTable : Obligations.OpcodeParametersMakeAnAdmissibleTable :=
  ⟨fun _ _ => optabOf_admissible_iff, optabOf_admissible_iff.1 OPTAB_admissible⟩

/-- Settles O9: the sourced opcodes bound the rows from below, the identifiers from above; the bytes with a row are the opcode
column, and the others are the rest of the 256. -/
theorem ncmdBytesAreKnown : Obligations.NcmdBytesAreKnown := by
  refine ⟨fun w reserved T hT => ⟨hT.three_le_ncmd, hT.ncmd_le, hT.length_knownBytes, ?unknown⟩, rfl⟩
  have hsplit := List.length_eq_length_filter_add (l := List.range 256)
    fun n => (T.byOpcode (BitVec.ofNat 8 n)).isSome
  simp only [List.length_range, Option.not_isSome, hT.length_knownBytes] at hsplit
  omega

/-- Settles O27: both are rows of shape NoPayload. -/
theorem writeEnableAndResetAreSpelledByTheirOpcodes : Obligations.WriteEnableAndResetAreSpelledByTheirOpcodes := by
  intro reserved o ho p hp
  simp only [List.mem_cons, List.not_mem_nil, or_false] at hp
  obtain rfl | rfl := hp
  · exact noPayload_row_spelled ho.optab (rowOf_mem o .writeEnable) rfl
  · exact noPayload_row_spelled ho.optab (rowOf_mem o .reset) rfl

/-- Settles O28: the four are rows of shape Addr24. -/
theorem fastReadsAndReadSFDPRegisterAreSpelledByTheirOpcodes :
    Obligations.FastReadsAndReadSFDPRegisterAreSpelledByTheirOpcodes := by
  intro reserved o ho p hp
  simp only [List.mem_cons, List.not_mem_nil, or_false] at hp
  obtain rfl | rfl | rfl | rfl := hp
  · exact addr24_row_spelled ho.optab (rowOf_mem o (.fastRead 0)) rfl
  · exact addr24_row_spelled ho.optab (rowOf_mem o (.fastReadDualOutput 0)) rfl
  · exact addr24_row_spelled ho.optab (rowOf_mem o (.fastReadQuadOutput 0)) rfl
  · exact addr24_row_spelled ho.optab (rowOf_mem o (.readSFDPRegister 0)) rfl

end Sys2Proof
end

section
/-! PROOFS. The decoder and the encoder: what each reads and writes frame by frame, and that they agree with each other and
with the serializer and the deserializer (R50 to R53, R64, R67). -/

namespace Sys2Proof

open Machine

/-! ## Frames and their bytes -/

/-- R50: a frame has one byte or four. -/
theorem Frame.length_bytes (f : Frame) : f.bytes.length = 1 ∨ f.bytes.length = 4 := by
  cases f with
  | np op => exact .inl rfl
  | a24 op a => exact .inr rfl

/-- R50: the bytes of a frame determine it. -/
theorem Frame.bytes_inj {f g : Frame} (h : f.bytes = g.bytes) : f = g := by
  rcases f with _ | ⟨_, _, _, _⟩ <;> rcases g with _ | ⟨_, _, _, _⟩ <;> simp_all [Frame.bytes]

/-! ## The decoder of a byte stream -/

section DecodeBy

variable {I : Type} {noPayload : Byte → Option I} {addr24 : Byte → Word → Option I}

/-- R64: a no-payload command takes the opcode byte alone. -/
theorem decodeBy_np {b : Byte} {i : I} (h : noPayload b = some i) (rest : List Byte) :
    decodeBy noPayload addr24 ((Frame.np b).bytes ++ rest) = .command i rest := by
  simp [Frame.bytes, decodeBy, h]

/-- R64: an address-carrying command takes the opcode byte and three more. -/
theorem decodeBy_a24 {b : Byte} {a : Bytes3} {i : I} (hnp : noPayload b = none) (h : addr24 b (decode24 a) = some i)
    (rest : List Byte) : decodeBy noPayload addr24 ((Frame.a24 b a).bytes ++ rest) = .command i rest := by
  rw [decode24] at h
  simp [Frame.bytes, decodeBy, hnp, h]

/-- R60: a byte that selects no command is rejected by name, whatever follows (assumption 16). -/
theorem decodeBy_unknown {b : Byte} (hnp : noPayload b = none) (ha : ∀ v, addr24 b v = none) (rest : List Byte) :
    decodeBy noPayload addr24 (b :: rest) = .rejected (.unknownOpcode b) := by
  rcases rest with _ | ⟨b0, _ | ⟨b1, _ | ⟨b2, rest⟩⟩⟩ <;> simp [decodeBy, hnp, ha]

/-- R64: whatever decodes begins with a frame, and what follows the frame is left. -/
theorem decodeBy_command_inv {bs rest : List Byte} {i : I} (h : decodeBy noPayload addr24 bs = .command i rest) :
    (∃ b, bs = (Frame.np b).bytes ++ rest ∧ noPayload b = some i) ∨
    (∃ b a, bs = (Frame.a24 b a).bytes ++ rest ∧ noPayload b = none ∧ addr24 b (decode24 a) = some i) := by
  cases bs with
  | nil => simp [decodeBy] at h
  | cons b tail =>
    cases hnp : noPayload b with
    | some j =>
      obtain ⟨rfl, rfl⟩ : j = i ∧ tail = rest := by simpa [decodeBy, hnp] using h
      exact .inl ⟨b, rfl, hnp⟩
    | none =>
      rcases tail with _ | ⟨b0, _ | ⟨b1, _ | ⟨b2, tail⟩⟩⟩
      case cons.cons.cons =>
        cases ha : addr24 b (wordOfBytes3 ⟨b0, b1, b2⟩) with
        | none => simp [decodeBy, hnp, ha] at h
        | some j =>
          obtain ⟨rfl, rfl⟩ : j = i ∧ tail = rest := by simpa [decodeBy, hnp, ha] using h
          exact .inr ⟨b, ⟨b0, b1, b2⟩, rfl, hnp, ha⟩
      all_goals cases ha : addr24 b 0#32 <;> simp [decodeBy, hnp, ha] at h

/-- Where the two selections read what the deserializer reads, the decoder reads a frame and leaves what follows exactly
where the deserializer reads the frame. `pair` is a command as a pair. -/
theorem decodeBy_eq_command_iff {T : Optab} {pair : I → Command}
    (hnp : ∀ b i, noPayload b = some i ↔ deserialize T b .absent = .ok (pair i))
    (ha : ∀ b v i, canonicalAddr v = true → (addr24 b v = some i ↔ deserialize T b (.a24 v) = .ok (pair i)))
    (hdisj : ∀ b v i, addr24 b v = some i → noPayload b = none) {bs rest : List Byte} {i : I} :
    decodeBy noPayload addr24 bs = .command i rest ↔
      ∃ f : Frame, bs = f.bytes ++ rest ∧ deserializeFrame T f = .ok (pair i) := by
  constructor
  · intro h
    obtain ⟨b, rfl, hb⟩ | ⟨b, a, rfl, -, hb⟩ := decodeBy_command_inv h
    · exact ⟨.np b, rfl, (hnp b i).1 hb⟩
    · exact ⟨.a24 b a, rfl, (ha b _ i (canonicalAddr_wordOfBytes3 a)).1 hb⟩
  · rintro ⟨f, rfl, hf⟩
    cases f with
    | np b => exact decodeBy_np ((hnp b i).2 hf) rest
    | a24 b a =>
      have hb := (ha b _ i (canonicalAddr_wordOfBytes3 a)).2 hf
      exact decodeBy_a24 (hdisj b _ i hb) hb rest

end DecodeBy

/-! ## Any opcode table -/

section AnyTable

variable {w : Nat} {reserved : List Byte} {T : Optab}

theorem Optab.noPayloadAt_eq_some_iff {b : Byte} {c : Command} :
    T.noPayloadAt b = some c ↔ ∃ r, T.byOpcode b = some r ∧ r.shape = .noPayload ∧ c = ⟨r.id, none⟩ := by
  cases hr : T.byOpcode b <;> simp [Optab.noPayloadAt, hr, eq_comm]

theorem Optab.addr24At_eq_some_iff {b : Byte} {v : Word} {c : Command} :
    T.addr24At b v = some c ↔ ∃ r, T.byOpcode b = some r ∧ r.shape = .addr24 ∧ c = ⟨r.id, some v⟩ := by
  cases hr : T.byOpcode b <;> simp [Optab.addr24At, hr, eq_comm]

/-- R50, R93, over an admissible table: the decoder reads a frame and leaves what follows exactly where the deserializer reads
the frame. -/
theorem decodeCommand_eq_command_iff (hT : T.Admissible w reserved) {bs rest : List Byte} {c : Command} :
    decodeCommand T bs = .command c rest ↔ ∃ f : Frame, bs = f.bytes ++ rest ∧ deserializeFrame T f = .ok c := by
  refine decodeBy_eq_command_iff (pair := id) ?noPayload ?addr24 ?disjoint
  case noPayload =>
    intro b c
    rw [Optab.noPayloadAt_eq_some_iff, deserialize_ok_iff hT]
    simp
  case addr24 =>
    intro b v c hv
    rw [Optab.addr24At_eq_some_iff, deserialize_ok_iff hT]
    simp [canon24_of_canonicalAddr hv]
  case disjoint =>
    intro b v c h
    obtain ⟨r, hr, hs, -⟩ := Optab.addr24At_eq_some_iff.1 h
    simp [Optab.noPayloadAt, hr, hs]

/-- The same of the bytes of one frame, with nothing left. -/
theorem decodeCommand_frame_iff (hT : T.Admissible w reserved) {f : Frame} {c : Command} :
    decodeCommand T f.bytes = .command c [] ↔ deserializeFrame T f = .ok c := by
  rw [decodeCommand_eq_command_iff hT]
  constructor
  · rintro ⟨g, hbytes, hg⟩
    obtain rfl : f = g := Frame.bytes_inj (by simpa using hbytes)
    exact hg
  · exact fun h => ⟨f, by simp, h⟩

/-- A Command of the table is serialized to a frame, which the encoder spells byte by byte and the deserializer reads back in
canonical form (R86, R101). -/
theorem Command.OfTable.frame (hT : T.Admissible w reserved) {c : Command} (hc : c.OfTable T) :
    ∃ f, serializeCommand T c = .ok f ∧ encodeCommand T c = some f.bytes ∧
      deserializeFrame T f = .ok (canonCommand c) := by
  obtain ⟨r, hr, ⟨hs, rfl⟩ | ⟨hs, v, rfl⟩⟩ := hc.byId hT
  · have hop := hT.byOpcode_mem (Optab.byId_some hr).1
    exact ⟨.np r.opcode, serialize_of_noPayload hr hs _, by simp [encodeCommand, hr, hs, encodeNP, Frame.bytes],
      deserialize_of_noPayload_absent hop hs⟩
  · have hop := hT.byOpcode_mem (Optab.byId_some hr).1
    refine ⟨.a24 r.opcode (encode24 v), serialize_of_addr24 hr hs _,
      by simp [encodeCommand, hr, hs, encodeA24, encode24, Frame.bytes], ?_⟩
    rw [deserializeFrame, argOfFrame, decode24_encode24]
    exact (deserialize_of_addr24_a24 hop hs _).trans (by simp [canonCommand])

/-- R101, the converse: a frame that the deserializer reads is the one that its Command is serialized to. -/
theorem serializeCommand_of_deserializeFrame (hT : T.Admissible w reserved) {f : Frame} {c : Command}
    (h : deserializeFrame T f = .ok c) : serializeCommand T c = .ok f := by
  obtain ⟨r, hr, hcase⟩ := (deserialize_ok_iff hT).1 h
  obtain ⟨hmem, hop⟩ := Optab.byOpcode_some hr
  cases f with
  | np op =>
    obtain ⟨hs, -, rfl⟩ | ⟨-, v, harg, -⟩ := hcase
    · exact (serialize_of_noPayload (hT.byId_mem hmem) hs _).trans (by rw [hop]; rfl)
    · cases harg
  | a24 op a =>
    obtain ⟨-, harg, -⟩ | ⟨hs, v, harg, rfl⟩ := hcase
    · cases harg
    · cases harg
      refine (serialize_of_addr24 (hT.byId_mem hmem) hs _).trans ?_
      rw [Option.getD_some, encode24_canon24, encode24_decode24, hop]
      rfl

end AnyTable

/-- Settles O37: both directions pass through the frame, which the decoder reads as the deserializer does and the encoder
spells as the serializer does. -/
theorem decodeAndEncodeAgreeOverAnyTable : Obligations.DecodeAndEncodeAgreeOverAnyTable := by
  intro w reserved T hT
  refine ⟨fun c hc => ?encoded, fun bs c rest h => ?decoded⟩
  case encoded =>
    obtain ⟨f, -, henc, hread⟩ := hc.frame hT
    exact ⟨f.bytes, henc, fun rest => (decodeCommand_eq_command_iff hT).2 ⟨f, rfl, hread⟩⟩
  case decoded =>
    obtain ⟨f, rfl, hread⟩ := (decodeCommand_eq_command_iff hT).1 h
    obtain ⟨hc, hcanon⟩ := deserialize_ok_ofTable hT hread
    obtain ⟨g, hser, henc, -⟩ := hc.frame hT
    obtain rfl : f = g := by simpa [serializeCommand_of_deserializeFrame hT hread] using hser
    exact ⟨hc, hcanon, f.bytes, henc, rfl, f.length_bytes⟩

/-! ## The nine commands -/

section Instructions

/-- R29: an instruction is named by its identifier and its address. -/
theorem instrOf_commandOf (i : Instr) : instrOf (cmdIdOf i) ((addrOf i).getD 0#32) = some i := by
  cases i <;> rfl

/-- R21: an instruction is its pair. -/
theorem commandOf_injective : Function.Injective commandOf := by
  intro i j h
  obtain ⟨hid, haddr⟩ : cmdIdOf i = cmdIdOf j ∧ addrOf i = addrOf j := by simpa [commandOf] using h
  simpa [← hid, ← haddr, instrOf_commandOf] using instrOf_commandOf j

theorem canonCommand_commandOf (i : Instr) : canonCommand (commandOf i) = commandOf (canonInstr i) := by
  cases i <;> rfl

theorem Instr.wf_of_addrOf_none {i : Instr} (h : addrOf i = none) : i.wf = true := by
  cases i <;> simp [addrOf] at h <;> rfl

theorem Instr.wf_of_addrOf_some {i : Instr} {v : Word} (h : addrOf i = some v) : i.wf = canonicalAddr v := by
  cases i <;> simp [addrOf] at h <;> simp [Instr.wf, h]

variable {o : Opcodes} {i : Instr}

/-- R50, format NP. -/
theorem encode_of_addrOf_none (h : addrOf i = none) : encode i o = (Frame.np (o.opcodeOf i)).bytes := by
  cases i <;> simp [addrOf] at h <;> rfl

/-- R50, format A24. -/
theorem encode_of_addrOf_some {v : Word} (h : addrOf i = some v) :
    encode i o = (Frame.a24 (o.opcodeOf i) (encode24 v)).bytes := by
  cases i <;> simp [addrOf] at h <;> subst h <;> rfl

theorem addrOf_canonInstr (i : Instr) : addrOf (canonInstr i) = (addrOf i).map canon24 := by
  cases i <;> rfl

theorem opcodeOf_canonInstr (o : Opcodes) (i : Instr) : o.opcodeOf (canonInstr i) = o.opcodeOf i := by
  cases i <;> rfl

/-- R37: the bytes of a command do not tell its stored word from the canonical one. -/
theorem encode_canonInstr : encode (canonInstr i) o = encode i o := by
  cases h : addrOf i with
  | none => rw [canonInstr_of_wf (Instr.wf_of_addrOf_none h)]
  | some v =>
    have h' : addrOf (canonInstr i) = some (canon24 v) := by rw [addrOf_canonInstr, h, Option.map_some]
    rw [encode_of_addrOf_some h, encode_of_addrOf_some h', encode24_canon24, opcodeOf_canonInstr]

/-- R21, R55: every instruction is a Command of the nine rows. -/
theorem commandOf_ofTable (o : Opcodes) (i : Instr) : (commandOf i).OfTable (optabOf o) := by
  refine ⟨o.rowOf i, rowOf_mem o i, rfl, ?_⟩
  cases h : addrOf i with
  | none => exact .inl ⟨Instr.shape_of_addrOf_none h, h⟩
  | some v => exact .inr ⟨Instr.shape_of_addrOf_some h, by simp [commandOf, h]⟩

/-- The encoder of the nine commands is the encoder of their table. -/
theorem encodeCommand_commandOf (o : Opcodes) (i : Instr) :
    encodeCommand (optabOf o) (commandOf i) = some (encode i o) := by
  cases i <;> rfl

/-- R63: the no-payload selection answers an instruction of that opcode, without an address. -/
theorem decodeNoPayload_some {b : Byte} (h : decodeNoPayload o b = some i) : addrOf i = none ∧ o.opcodeOf i = b := by
  revert h
  rw [decodeNoPayload]
  split_ifs with hb hb hb <;> intro h <;> cases h <;> exact ⟨rfl, hb.symm⟩

/-- R63: the address-carrying selection answers an instruction of that opcode, at that address. -/
theorem decodeAddr24_some {b : Byte} {v : Word} (h : decodeAddr24 o b v = some i) :
    addrOf i = some v ∧ o.opcodeOf i = b := by
  revert h
  rw [decodeAddr24]
  split_ifs with hb hb hb hb hb hb <;> intro h <;> cases h <;> exact ⟨rfl, hb.symm⟩

/-- The no-payload selection finds the opcode of every instruction without an address: the instruction's own branch is
reached, or an earlier one answers. -/
theorem decodeNoPayload_opcodeOf (h : addrOf i = none) : ∃ j, decodeNoPayload o (o.opcodeOf i) = some j := by
  cases i <;> simp [addrOf] at h
  all_goals
    simp only [decodeNoPayload, Opcodes.opcodeOf]
    split_ifs <;> exact ⟨_, rfl⟩

/-- The address-carrying selection finds the opcode of every instruction with an address, at any address. -/
theorem decodeAddr24_opcodeOf {u : Word} (h : addrOf i = some u) (v : Word) :
    ∃ j, decodeAddr24 o (o.opcodeOf i) v = some j := by
  cases i <;> simp [addrOf] at h
  all_goals
    simp only [decodeAddr24, Opcodes.opcodeOf]
    split_ifs <;> exact ⟨_, rfl⟩

end Instructions

section Admissible

variable {reserved : List Byte} {o : Opcodes} {i j : Instr}

/-- R6: over admissible parameters, instructions with one opcode are of one row. -/
theorem Opcodes.Admissible.rowOf_eq (ho : o.Admissible reserved) (h : o.opcodeOf i = o.opcodeOf j) :
    o.rowOf i = o.rowOf j :=
  ho.optab.eq_of_opcode_eq (rowOf_mem o i) (rowOf_mem o j) h

/-- R6: over admissible parameters, opcode and address determine the instruction. -/
theorem Opcodes.Admissible.instr_eq (ho : o.Admissible reserved) (hop : o.opcodeOf i = o.opcodeOf j)
    (haddr : addrOf i = addrOf j) : i = j := by
  have hid : cmdIdOf i = cmdIdOf j := congrArg Row.id (ho.rowOf_eq hop)
  exact commandOf_injective (by rw [commandOf, commandOf, hid, haddr])

theorem decodeNoPayload_eq_some_iff (ho : o.Admissible reserved) {b : Byte} :
    decodeNoPayload o b = some i ↔ addrOf i = none ∧ o.opcodeOf i = b := by
  refine ⟨decodeNoPayload_some, ?_⟩
  rintro ⟨hi, rfl⟩
  obtain ⟨j, h⟩ := decodeNoPayload_opcodeOf (o := o) hi
  obtain ⟨hj, hop⟩ := decodeNoPayload_some h
  rw [h, ho.instr_eq hop (hj.trans hi.symm)]

theorem decodeAddr24_eq_some_iff (ho : o.Admissible reserved) {b : Byte} {v : Word} :
    decodeAddr24 o b v = some i ↔ addrOf i = some v ∧ o.opcodeOf i = b := by
  refine ⟨decodeAddr24_some, ?_⟩
  rintro ⟨hi, rfl⟩
  obtain ⟨j, h⟩ := decodeAddr24_opcodeOf (o := o) hi v
  obtain ⟨hj, hop⟩ := decodeAddr24_some h
  rw [h, ho.instr_eq hop (hj.trans hi.symm)]

/-- R6: over admissible parameters, no opcode is both of a no-payload and of an address-carrying command. -/
theorem decodeNoPayload_none_of_decodeAddr24 (ho : o.Admissible reserved) {b : Byte} {v : Word}
    (h : decodeAddr24 o b v = some i) : decodeNoPayload o b = none := by
  obtain ⟨hi, rfl⟩ := decodeAddr24_some h
  cases hnp : decodeNoPayload o (o.opcodeOf i) with
  | none => rfl
  | some j =>
    obtain ⟨hj, hop⟩ := decodeNoPayload_some hnp
    have hs : j.shape = i.shape := congrArg Row.shape (ho.rowOf_eq hop)
    simp [Instr.shape_of_addrOf_none hj, Instr.shape_of_addrOf_some hi] at hs

/-- R93, R97, for the nine rows: the deserializer gives an instruction exactly on its opcode and an argument that fits it. -/
theorem deserialize_optabOf_ok_iff (ho : o.Admissible reserved) {b : Byte} {arg : AddrArg} :
    deserialize (optabOf o) b arg = .ok (commandOf i) ↔ o.opcodeOf i = b ∧
      ((addrOf i = none ∧ arg = .absent) ∨ ∃ v, arg = .a24 v ∧ addrOf i = some (canon24 v)) := by
  have hrow := ho.optab.byOpcode_mem (rowOf_mem o i)
  constructor
  · intro h
    obtain ⟨r, hr, hcase⟩ := (deserialize_ok_iff ho.optab).1 h
    obtain ⟨hmem, rfl⟩ := Optab.byOpcode_some hr
    have hid : cmdIdOf i = r.id := by obtain ⟨-, -, h⟩ | ⟨-, v, -, h⟩ := hcase <;> exact congrArg Command.id h
    obtain rfl : r = o.rowOf i := by
      simpa [← hid, optabOf_byId_cmdIdOf, eq_comm] using ho.optab.byId_mem hmem
    refine ⟨rfl, ?_⟩
    obtain ⟨-, harg, h⟩ | ⟨-, v, harg, h⟩ := hcase
    · exact .inl ⟨congrArg Command.addr h, harg⟩
    · exact .inr ⟨v, harg, congrArg Command.addr h⟩
  · rintro ⟨rfl, ⟨hi, rfl⟩ | ⟨v, rfl, hi⟩⟩
    · rw [commandOf, hi]
      exact deserialize_of_noPayload_absent hrow (Instr.shape_of_addrOf_none hi)
    · rw [commandOf, hi]
      exact deserialize_of_addr24_a24 hrow (Instr.shape_of_addrOf_some hi) v

/-- R50, R93, for the nine commands: the decoder reads a frame and leaves what follows exactly where the deserializer reads
the frame. -/
theorem decode_eq_command_iff (ho : o.Admissible reserved) {bs rest : List Byte} :
    decode bs o = .command i rest ↔
      ∃ f : Frame, bs = f.bytes ++ rest ∧ deserializeFrame (optabOf o) f = .ok (commandOf i) := by
  rw [decode]
  refine decodeBy_eq_command_iff ?noPayload ?addr24 ?disjoint
  case noPayload =>
    intro b i
    rw [decodeNoPayload_eq_some_iff ho, deserialize_optabOf_ok_iff ho]
    simp [and_comm]
  case addr24 =>
    intro b v i hv
    rw [decodeAddr24_eq_some_iff ho, deserialize_optabOf_ok_iff ho]
    simp [and_comm, canon24_of_canonicalAddr hv]
  case disjoint => exact fun b v i => decodeNoPayload_none_of_decodeAddr24 ho

/-- The decoder of the nine commands is the decoder of their table. -/
theorem decodeCommand_optabOf_iff (ho : o.Admissible reserved) {bs rest : List Byte} :
    decodeCommand (optabOf o) bs = .command (commandOf i) rest ↔ decode bs o = .command i rest := by
  rw [decode_eq_command_iff ho, decodeCommand_eq_command_iff ho.optab]

/-- R101: the bytes of a command decode to its canonical form and leave what follows. -/
theorem decode_encode (ho : o.Admissible reserved) (i : Instr) (rest : List Byte) :
    decode (encode i o ++ rest) o = .command (canonInstr i) rest := by
  obtain ⟨f, -, henc, hread⟩ := (commandOf_ofTable o i).frame ho.optab
  rw [encodeCommand_commandOf, Option.some_inj] at henc
  exact (decode_eq_command_iff ho).2 ⟨f, by rw [henc], by rw [hread, canonCommand_commandOf]⟩

end Admissible

/-- Settles O35: the round trip, and that a well-formed command is its own canonical form. -/
theorem decodeUndoesEncode : Obligations.DecodeUndoesEncode := by
  intro reserved o ho i rest
  refine ⟨decode_encode ho i rest, fun hi => ?wellFormed⟩
  rw [decode_encode ho, canonInstr_of_wf hi]

/-- Settles O36: each selection answers an instruction with the byte it read and the address of the bytes it read, which is
canonical and which the encoder spells by those bytes. -/
theorem encodeUndoesDecode : Obligations.EncodeUndoesDecode := by
  intro o bs i rest h
  have key : ∃ f : Frame, bs = f.bytes ++ rest ∧ encode i o = f.bytes ∧ i.wf = true := by
    obtain ⟨b, rfl, hb⟩ | ⟨b, a, rfl, -, hb⟩ := decodeBy_command_inv h
    · obtain ⟨hi, rfl⟩ := decodeNoPayload_some hb
      exact ⟨_, rfl, encode_of_addrOf_none hi, Instr.wf_of_addrOf_none hi⟩
    · obtain ⟨hi, rfl⟩ := decodeAddr24_some hb
      refine ⟨_, rfl, ?_, ?_⟩
      · rw [encode_of_addrOf_some hi, encode24_decode24]
      · exact (Instr.wf_of_addrOf_some hi).trans (canonicalAddr_wordOfBytes3 a)
  obtain ⟨f, rfl, henc, hwf⟩ := key
  exact ⟨hwf, by rw [henc], henc ▸ f.length_bytes⟩

/-- Settles O33: what two commands with the same bytes decode to is one command, and the bytes are those of the canonical
form. -/
theorem commandsShareBytesExactlyWhenEqual : Obligations.CommandsShareBytesExactlyWhenEqual := by
  intro reserved o ho i j
  constructor
  · intro h
    have hi := decode_encode ho i []
    rw [h, decode_encode ho j []] at hi
    injection hi with hcanon
    exact hcanon.symm
  · intro h
    rw [← encode_canonInstr, h, encode_canonInstr]

/-- Settles O40: the decoder reads a frame's bytes with nothing left exactly where the deserializer reads the frame, and a
command is its pair. -/
theorem deserializerReadsWhatTheDecoderReads : Obligations.DeserializerReadsWhatTheDecoderReads := by
  intro reserved o ho f i
  rw [← decodeCommand_optabOf_iff ho]
  exact (decodeCommand_frame_iff ho.optab).symm

/-- Settles O39: both look at the instruction's row: its opcode, and its address bytes where it has an address. -/
theorem serializerSpellsWhatTheEncoderSpells : Obligations.SerializerSpellsWhatTheEncoderSpells := by
  intro o i
  have hr := optabOf_byId_cmdIdOf o i
  cases h : addrOf i with
  | none =>
    have hs := Instr.shape_of_addrOf_none h
    exact ⟨.np (o.opcodeOf i), serialize_of_noPayload hr hs _, (encode_of_addrOf_none h).symm,
      encode_of_addrOf_none (o := o) h ▸ frameLength_of_noPayload hr hs⟩
  | some v =>
    have hs := Instr.shape_of_addrOf_some h
    refine ⟨.a24 (o.opcodeOf i) (encode24 v), ?_, (encode_of_addrOf_some h).symm,
      encode_of_addrOf_some (o := o) h ▸ frameLength_of_addr24 hr hs⟩
    rw [serializeCommand, commandOf, h]
    exact serialize_of_addr24 hr hs v

/-! ## The opcode table's patterns -/

/-- The encoding row of a row of the opcode table (R67): the length of its shape and the pattern of its opcode. -/
def Row.encoding (r : Row) : EncodingRow :=
  ⟨r.mnemonic, if r.shape = .noPayload then 1#3 else 4#3, r.opcode.zeroExtend 32, 0x000000FF#32⟩

theorem encodingTable_eq_map (o : Opcodes) : encodingTable o = (optabOf o).map Row.encoding := rfl

/-- Masked to its lowest byte, a word is byte 0. -/
theorem and_ff_eq_byteAt_zero (v : Word) : v &&& 0x000000FF#32 = (byteAt v 0).zeroExtend 32 := by
  apply BitVec.eq_of_toNat_eq
  have hmask : v.toNat &&& 255 = v.toNat % 256 := Nat.and_two_pow_sub_one_eq_mod v.toNat 8
  have hbyte : (byteAt v 0).toNat = v.toNat % 256 := by simpa using toNat_byteAt v 0
  rw [BitVec.toNat_and, BitVec.toNat_setWidth, hbyte, Nat.mod_eq_of_lt (by omega)]
  exact hmask

/-- R30: masked to its lowest byte, a frame word is the frame's opcode. -/
theorem Frame.word_and_ff (f : Frame) : f.word &&& 0x000000FF#32 = f.opcode.zeroExtend 32 := by
  rw [and_ff_eq_byteAt_zero, Frame.byteAt_word_zero]

/-- R67: an encoding row spells a frame exactly where the length is its own and the opcode is the row's. -/
theorem Row.encoding_spells_iff {r : Row} {f : Frame} :
    r.encoding.spells f = true ↔ f.len = r.encoding.lengthBytes ∧ f.opcode = r.opcode := by
  have hinj : f.opcode.zeroExtend 32 = r.opcode.zeroExtend 32 ↔ f.opcode = r.opcode :=
    ⟨fun h => by simpa using congrArg (BitVec.setWidth 8) h, fun h => h ▸ rfl⟩
  simp only [EncodingRow.spells, Row.encoding, Frame.word_and_ff, Bool.and_eq_true, beq_iff_eq, hinj]

/-- R55: the nine rows bear nine names. -/
theorem optabOf_mnemonics_nodup (o : Opcodes) : ((optabOf o).map Row.mnemonic).Nodup := by
  show (OPTAB.map Row.mnemonic).Nodup
  decide

/-- Settles O38: a frame has its instruction's opcode, which no other row has, and the length of that row's shape; and no
other row has the instruction's name. -/
theorem aFrameIsSpelledByExactlyItsTableRow : Obligations.AFrameIsSpelledByExactlyItsTableRow := by
  intro reserved o ho i f hf row hrow
  rw [encodingTable_eq_map, List.mem_map] at hrow
  obtain ⟨r, hr, rfl⟩ := hrow
  have hmine : f.len = (o.rowOf i).encoding.lengthBytes ∧ f.opcode = o.opcodeOf i := by
    obtain ⟨r', hr', hcase⟩ := serialize_ok_inv hf
    obtain rfl : o.rowOf i = r' := by simpa [commandOf, optabOf_byId_cmdIdOf] using hr'
    obtain ⟨hs, rfl⟩ | ⟨hs, rfl⟩ := hcase
    · exact ⟨by simp [Row.encoding, hs, Frame.len], rfl⟩
    · exact ⟨by simp [Row.encoding, hs, Frame.len], rfl⟩
  rw [Row.encoding_spells_iff]
  constructor
  · rintro ⟨-, hop⟩
    obtain rfl : r = o.rowOf i := ho.optab.eq_of_opcode_eq hr (rowOf_mem o i) (hop.symm.trans hmine.2)
    rfl
  · intro hname
    obtain rfl : r = o.rowOf i := List.inj_on_of_nodup_map (optabOf_mnemonics_nodup o) hr (rowOf_mem o i) hname
    exact hmine

/-- Settles O7: the count is that of an admissible table; a byte outside the opcode column has no row, and neither selection of
the decoder answers it. -/
theorem defaultTableKnowsExactlyNineBytes : Obligations.DefaultTableKnowsExactlyNineBytes := by
  refine ⟨OPTAB_admissible.length_knownBytes, fun b hb => ⟨?deserializer, ?decoder⟩⟩
  case deserializer => exact deserialize_of_byOpcode_none (Optab.byOpcode_eq_none_iff_notMem.2 hb)
  case decoder =>
    have hother : ∀ i, defaultOpcodes.opcodeOf i ≠ b :=
      fun i hi => hb (hi ▸ List.mem_map_of_mem (rowOf_mem defaultOpcodes i))
    refine fun rest => decodeBy_unknown ?_ (fun v => ?_) rest
    · exact Option.eq_none_iff_forall_ne_some.2 fun i hi => hother i (decodeNoPayload_some hi).2
    · exact Option.eq_none_iff_forall_ne_some.2 fun i hi => hother i (decodeAddr24_some hi).2

/-- Settles O34: the five words are computed. -/
theorem tableWordsDecodeToTheirCommands : Obligations.TableWordsDecodeToTheirCommands := by
  refine ⟨?readJEDECID, ?writeEnable, ?readData, ?pageProgram, ?fastRead⟩
  case readJEDECID => decide
  case writeEnable => decide
  case readData => decide
  case pageProgram => decide
  case fastRead => decide

end Sys2Proof
end

section
/-! PROOFS. Commands as text (R65): each reader undoes its writer and leaves what follows. -/

namespace Sys2Proof

namespace Machine

/-- A literal is read off the front of a text that begins with it. -/
theorem readLit_append (lit cs : List Char) : readLit lit (lit ++ cs) = some cs := by
  induction lit with
  | nil => rfl
  | cons l ls ih => simpa [readLit] using ih

/-- A text is cut at the first stop character. -/
theorem splitAt1_append {stop : Char} {ds : List Char} (h : stop ∉ ds) (rest : List Char) :
    splitAt1 stop (ds ++ stop :: rest) = some (ds, rest) := by
  induction ds with
  | nil => simp [splitAt1]
  | cons d ds ih =>
    obtain ⟨hd, hds⟩ : ¬ stop = d ∧ stop ∉ ds := by simpa using h
    simp [splitAt1, ih hds, Ne.symm hd]

/-! ## Numbers -/

theorem digitValue_hexDigit {d : Nat} (h : d < 16) : digitValue (hexDigit d) = some d := by
  revert d
  decide

theorem hexDigit_ne_closing {d : Nat} (h : d < 16) : hexDigit d ≠ ')' := by
  revert d
  decide

/-- Reading `k` written digits carries the number's last `k` digits into what was read so far. -/
theorem readDigits_hexDigits (k n acc : Nat) (cs : List Char) :
    readDigits 16 acc (hexDigits k n ++ cs) = readDigits 16 (acc * 16 ^ k + n % 16 ^ k) cs := by
  induction k generalizing n cs with
  | zero => simp [hexDigits, Nat.mod_one]
  | succ k ih =>
    have hd : n % 16 < 16 := Nat.mod_lt n (by decide)
    have hsum : (acc * 16 ^ k + n / 16 % 16 ^ k) * 16 + n % 16 = acc * 16 ^ (k + 1) + n % 16 ^ (k + 1) := by
      rw [Nat.pow_succ', Nat.mod_mul]
      ring
    rw [hexDigits, List.append_assoc, ih, List.singleton_append, readDigits]
    simp only [digitValue_hexDigit hd, if_pos hd, hsum]

theorem closing_notMem_hexDigits (k n : Nat) : ')' ∉ hexDigits k n := by
  induction k generalizing n with
  | zero => simp [hexDigits]
  | succ k ih => simp [hexDigits, ih, (hexDigit_ne_closing (Nat.mod_lt n (by decide))).symm]

theorem hexDigits_ne_nil (k n : Nat) : hexDigits (k + 1) n ≠ [] := by simp [hexDigits]

/-- After `0x`, a number is read in base 16, where there is a digit. -/
theorem readNumber_hex {ds : List Char} (h : ds ≠ []) : readNumber ('0' :: 'x' :: ds) = readDigits 16 0 ds := by
  cases ds with
  | nil => exact absurd rfl h
  | cons d ds => rfl

/-- A number of at most `k` digits, written with `k` of them, is read back. -/
theorem readNumber_hexText {k n : Nat} (h : n < 16 ^ (k + 1)) : readNumber (hexText (k + 1) n) = some n := by
  have hread := readDigits_hexDigits (k + 1) n 0 []
  rw [List.append_nil, Nat.zero_mul, Nat.zero_add, Nat.mod_eq_of_lt h] at hread
  rw [hexText, readNumber_hex (hexDigits_ne_nil k n), hread, readDigits]

/-- The same below a bound and closed by a parenthesis. -/
theorem readNumberTo_hexText {k n bound : Nat} (h : n < 16 ^ (k + 1)) (hb : n < bound) (rest : List Char) :
    readNumberTo ')' bound (hexText (k + 1) n ++ ')' :: rest) = some (n, rest) := by
  have hstop : ')' ∉ hexText (k + 1) n := by simp [hexText, closing_notMem_hexDigits]
  simp [readNumberTo, splitAt1_append hstop, readNumber_hexText h, hb]

/-! ## Addresses and commands -/

/-- The canonical stored word is below 2^24, so six digits hold it. -/
theorem canon24_toNat_lt (v : Word) : (canon24 v).toNat < 2 ^ 24 := by
  rw [canon24_eq_zeroExtend, BitVec.toNat_setWidth]
  exact (Nat.mod_le _ _).trans_lt (v.extractLsb' 0 24).isLt

/-- An address is read back in canonical form. -/
theorem readAddress24_address24Text (v : Word) (rest : List Char) :
    readAddress24 (address24Text v ++ rest) = some (canon24 v, rest) := by
  have hdigits : (canon24 v).toNat < 16 ^ (5 + 1) := (canon24_toNat_lt v).trans_eq (by norm_num)
  have hnum := readNumberTo_hexText hdigits (canon24 v).isLt rest
  rw [readAddress24, address24Text, List.append_assoc, List.append_assoc, readLit_append]
  simp only [List.singleton_append, hnum, Option.map_some, BitVec.ofNat_toNat, BitVec.setWidth_eq]

/-- R65: every character of a mnemonic may stand in a name. -/
theorem isNameChar_of_mem_mnemonicText (i : Instr) : ∀ c ∈ mnemonicText i, isNameChar c = true := by
  have hall : (mnemonicText i).all isNameChar = true := by cases i <;> rfl
  exact List.all_eq_true.1 hall

theorem noPayloadNamed_mnemonicText_of_none {i : Instr} (h : addrOf i = none) :
    noPayloadNamed (mnemonicText i) = some i := by
  cases i <;> simp [addrOf] at h <;> rfl

theorem noPayloadNamed_mnemonicText_of_some {i : Instr} {v : Word} (h : addrOf i = some v) :
    noPayloadNamed (mnemonicText i) = none := by
  cases i <;> simp [addrOf] at h <;> rfl

theorem addr24Named_mnemonicText {i : Instr} {v : Word} (h : addrOf i = some v) :
    addr24Named (mnemonicText i) (canon24 v) = some (canonInstr i) := by
  cases i <;> simp [addrOf] at h <;> subst h <;> rfl

/-- A mnemonic is read whole, up to a character that is no letter and no digit. -/
theorem takeWhile_mnemonicText (i : Instr) {rest : List Char} (h : ∀ c ∈ rest.head?, isNameChar c = false) :
    (mnemonicText i ++ rest).takeWhile isNameChar = mnemonicText i ∧
    (mnemonicText i ++ rest).dropWhile isNameChar = rest := by
  rw [List.takeWhile_append_of_pos (isNameChar_of_mem_mnemonicText i),
    List.dropWhile_append_of_pos (isNameChar_of_mem_mnemonicText i)]
  cases rest with
  | nil => simp
  | cons c cs =>
    have hc : isNameChar c = false := h c rfl
    simp [hc]

end Machine

open Machine

/-- Settles O41: the mnemonic names the command, alone or with the address in parentheses, which is read back in canonical
form. -/
theorem readingTheTextOfACommandGivesItBack : Obligations.ReadingTheTextOfACommandGivesItBack := by
  intro i rest hrest
  cases h : addrOf i with
  | none =>
    obtain ⟨htake, hdrop⟩ := takeWhile_mnemonicText i hrest
    rw [commandText, h, canonInstr_of_wf (Instr.wf_of_addrOf_none h)]
    simp only [readCommand, htake, hdrop, noPayloadNamed_mnemonicText_of_none h]
  | some v =>
    have htext : commandText i ++ rest = mnemonicText i ++ '(' :: (address24Text v ++ ')' :: rest) := by
      simp [commandText, h]
    obtain ⟨htake, hdrop⟩ :=
      takeWhile_mnemonicText i (rest := '(' :: (address24Text v ++ ')' :: rest)) (by simp; decide)
    rw [htext]
    simp only [readCommand, htake, hdrop, noPayloadNamed_mnemonicText_of_some h, readAddress24_address24Text,
      addr24Named_mnemonicText h, Option.map_some]

end Sys2Proof
end

section
/-! PROOFS. Running a command and receiving a frame: what each leaves on the ports and answers, over any opcode table
(assumptions 5, 6 and 7), and that every answer is sane. -/

namespace Sys2Proof

namespace Machine

section Operations

variable {w : Nat} {I : Type} (T : Optab)

/-! ## Running a command -/

section presentCommand
variable (c : Command) (s : State w I)

theorem presentCommand_ser : (presentCommand c s T).ser = ⟨BitVec.ofNat w c.id, c.addr.getD s.ser.addr⟩ := rfl

theorem presentCommand_flen : (presentCommand c s T).flen = ⟨BitVec.ofNat w c.id⟩ := rfl

theorem presentCommand_pending : (presentCommand c s T).pending = s.pending := rfl

theorem presentCommand_serOut :
    (presentCommand c s T).serOut T = serUnit T ⟨BitVec.ofNat w c.id, c.addr.getD s.ser.addr⟩ := rfl

theorem presentCommand_flenOut : (presentCommand c s T).flenOut T = flenUnit T ⟨BitVec.ofNat w c.id⟩ := rfl

theorem presentCommand_onlySerFlenDriven : State.OnlySerFlenDriven s (presentCommand c s T) := ⟨rfl, rfl, rfl⟩

theorem presentCommand_replies :
    (presentCommand c s T).replies = s.replies ++
      [.ser (serUnit T ⟨BitVec.ofNat w c.id, c.addr.getD s.ser.addr⟩), .flen (flenUnit T ⟨BitVec.ofNat w c.id⟩)] := by
  simp [presentCommand_eq]

end presentCommand

/-! ## Receiving a frame -/

section receiveFrame
variable (f : Frame) (s : State w I)

theorem receiveFrame_ser : (receiveFrame f s T).ser = s.ser := by cases f <;> rfl

theorem receiveFrame_flen : (receiveFrame f s T).flen = s.flen := by cases f <;> rfl

theorem receiveFrame_pending : (receiveFrame f s T).pending = s.pending := by cases f <;> rfl

/-- R101: DES answers what the deserializer gives for the frame. -/
theorem receiveFrame_desOut : (receiveFrame f s T).desOut T = desOutOf (deserializeFrame T f) := by
  cases f with
  | np op => rw [receiveFrame_np]; rfl
  | a24 op a => rw [receiveFrame_a24]; rfl

theorem receiveFrame_replies :
    (receiveFrame f s T).replies =
      s.replies ++ (extractorAnswers f ++ [.des (desOutOf (deserializeFrame T f))]) := by
  cases f with
  | np op => rw [receiveFrame_np]; rfl
  | a24 op a => rw [receiveFrame_a24, State.addReply_replies, State.setDes_replies, State.addReply_replies,
      State.setAenc_replies, List.append_assoc]; rfl

end receiveFrame

/-- Invoking a unit's ports answers what `portAnswer` says. -/
theorem invokePort_replies (r : PortRequest w) (s : State w I) :
    (invokePort r s T).replies = s.replies ++ [portAnswer r T] := by
  cases r <;> rfl

theorem invokePort_pending (r : PortRequest w) (s : State w I) : (invokePort r s T).pending = s.pending := by
  cases r <;> rfl

end Operations

/-! ## A Command of the table on the ports -/

section OfTable

variable {w : Nat} {reserved : List Byte} {T : Optab} {c : Command}

/-- R56 (f), for a Command of an admissible table: the identifier ports carry its identifier whole. -/
theorem toNat_ofNat_ofTable (hT : T.Admissible w reserved) (hc : c.OfTable T) : (BitVec.ofNat w c.id).toNat = c.id := by
  obtain ⟨r, hr, hid, -⟩ := hc
  rw [← hid, hT.toNat_ofNat_id hr]

/-- SER answers a Command's frame, whatever address stands at its port where the Command carries none (R25). -/
theorem serUnit_ofTable (hT : T.Admissible w reserved) (hc : c.OfTable T) (a : Word) :
    serUnit T (⟨BitVec.ofNat w c.id, c.addr.getD a⟩ : SerIn w) = serOutOf (serializeCommand T c) := by
  rw [serUnit, toNat_ofNat_ofTable hT hc, serializeCommand]
  obtain ⟨r, hr, ⟨hs, rfl⟩ | ⟨-, v, rfl⟩⟩ := hc.byId hT
  · rw [serialize_of_noPayload hr hs, serialize_of_noPayload hr hs]
  · rfl

/-- FLEN answers a Command's length. -/
theorem flenUnit_ofTable (hT : T.Admissible w reserved) (hc : c.OfTable T) :
    flenUnit T (⟨BitVec.ofNat w c.id⟩ : FlenIn w) = flenOutOf (frameLength T c.id) := by
  rw [flenUnit, toNat_ofNat_ofTable hT hc]

/-- R89: the frame of a Command on SER's ports. -/
theorem serUnit_frame (hT : T.Admissible w reserved) (hc : c.OfTable T) {f : Frame} (hf : serializeCommand T c = .ok f)
    (a : Word) : serUnit T (⟨BitVec.ofNat w c.id, c.addr.getD a⟩ : SerIn w) = ⟨f.word, f.len, 0⟩ := by
  rw [serUnit_ofTable hT hc, hf]
  rfl

/-- R85, R89: the length of a Command's frame on FLEN's ports. -/
theorem flenUnit_frame (hT : T.Admissible w reserved) (hc : c.OfTable T) {f : Frame} (hf : serializeCommand T c = .ok f) :
    flenUnit T (⟨BitVec.ofNat w c.id⟩ : FlenIn w) = ⟨f.len, 0⟩ := by
  rw [flenUnit_ofTable hT hc, (frameLengthAgreesWithSerialize T c.id _).1 f hf]
  cases f <;> rfl

end OfTable

/-! ## Sane answers -/

section Sanity

variable {w : Nat} {I : Type} {reserved : List Byte} {T : Optab}

/-- Sane answers added to sane answers are sane. -/
theorem State.Sane.append {s t : State w I} {l : List (Reply w)} (hs : s.Sane T) (hl : ∀ r ∈ l, r.Sane T)
    (ht : t.replies = s.replies ++ l) : t.Sane T := by
  intro r hr
  rw [ht, List.mem_append] at hr
  exact hr.elim (hs r) (hl r)

/-- Every answer of one unit is sane, whatever is on its ports. -/
theorem portAnswer_sane (hT : T.Admissible w reserved) (r : PortRequest w) : (portAnswer r T).Sane T := by
  cases r with
  | serialize i v => exact serUnit_sane ⟨i, v⟩
  | frameLength i => exact flenUnit_sane ⟨i⟩
  | encode24 v => trivial
  | encode32 v => trivial
  | decode24 b => exact canonicalAddr_wordOfBytes3 (unpackBytes3 b)
  | decode32 b => trivial
  | deserialize op present is32 v => exact desUnit_sane hT ⟨op, present, is32, v⟩

theorem invokePort_sane (hT : T.Admissible w reserved) (r : PortRequest w) {s : State w I} (hs : s.Sane T) :
    (invokePort r s T).Sane T :=
  hs.append (by simpa using portAnswer_sane hT r) (invokePort_replies T r s)

/-- Running any pair, a Command of the table or not, keeps the answers sane. -/
theorem presentCommand_sane (c : Command) {s : State w I} (hs : s.Sane T) : (presentCommand c s T).Sane T := by
  refine hs.append ?_ (presentCommand_replies T c s)
  simp only [List.mem_cons, List.not_mem_nil, or_false, forall_eq_or_imp, forall_eq]
  exact ⟨serUnit_sane _, flenUnit_sane _⟩

theorem receiveFrame_sane (hT : T.Admissible w reserved) (f : Frame) {s : State w I} (hs : s.Sane T) :
    (receiveFrame f s T).Sane T := by
  have hdes : (desOutOf (deserializeFrame T f) : DesOut w).Sane T := by
    cases f with
    | np op => exact desUnit_sane hT ⟨op, false, false, 0⟩
    | a24 op a => exact desUnit_sane hT ⟨op, true, false, decode24 a⟩
  refine hs.append (fun r hr => ?_) (receiveFrame_replies T f s)
  obtain hr | hr := List.mem_append.1 hr
  · cases f with
    | np op => simp [extractorAnswers] at hr
    | a24 op a =>
      obtain rfl := List.mem_singleton.1 hr
      exact canonicalAddr_wordOfBytes3 a
  · obtain rfl := List.mem_singleton.1 hr
    exact hdes

end Sanity

end Machine

open Machine

/-- Settles O32: the machine presents the Command's identifier and address; SER answers its frame and FLEN its length. -/
theorem commandsOfAnyTableComplete : Obligations.CommandsOfAnyTableComplete := by
  intro w reserved T hT c hc s
  obtain ⟨f, hf, -⟩ := hc.frame hT
  refine ⟨presentCommand c s T, f, rfl, hf, ?opcode, presentCommand_ser T c s, presentCommand_flen T c s, ?serOut, ?flenOut,
    ?replies, presentCommand_onlySerFlenDriven T c s⟩
  case opcode =>
    obtain ⟨r, hr, hop⟩ := serialize_ok_opcode hf
    exact hop ▸ List.mem_map_of_mem hr
  case serOut => exact serUnit_frame hT hc hf _
  case flenOut => exact flenUnit_frame hT hc hf
  case replies => rw [presentCommand_replies, serUnit_frame hT hc hf, flenUnit_frame hT hc hf]

/-- A command without an address completes: it is a Command of the default table, whose frame is its opcode alone. -/
theorem noPayloadCompletes_of_addrOf_none {i : Instr} (h : addrOf i = none) :
    NoPayloadCompletes i (cmdIdOf i) (defaultOpcodes.opcodeOf i) := by
  intro s
  have hc : (commandOf i).OfTable OPTAB := commandOf_ofTable defaultOpcodes i
  have hf : serializeCommand OPTAB (commandOf i) = .ok (.np (defaultOpcodes.opcodeOf i)) :=
    serialize_of_noPayload (optabOf_byId_cmdIdOf defaultOpcodes i) (Instr.shape_of_addrOf_none h) _
  have hser : ∀ a, serUnit OPTAB (⟨BitVec.ofNat CMD_ID_W (cmdIdOf i), (addrOf i).getD a⟩ : SerIn) =
      ⟨(defaultOpcodes.opcodeOf i).zeroExtend 32, 1#3, 0#3⟩ :=
    Frame.word_np (defaultOpcodes.opcodeOf i) ▸ serUnit_frame OPTAB_admissible hc hf
  have hflen : flenUnit OPTAB (⟨BitVec.ofNat CMD_ID_W (cmdIdOf i)⟩ : FlenIn) = ⟨1#3, 0#3⟩ :=
    flenUnit_frame OPTAB_admissible hc hf
  refine ⟨presentCommand (commandOf i) s, exec_eq i s, ?ser, presentCommand_flen _ _ s, hser _, hflen, ?replies,
    presentCommand_onlySerFlenDriven _ _ s⟩
  case ser => rw [presentCommand_ser, commandOf, h, Option.getD_none]
  case replies => rw [presentCommand_replies, commandOf, hser, hflen]

/-- A command with an address completes: it is a Command of the default table, whose frame is its opcode and the three
address bytes. -/
theorem addr24Completes_of_addrOf_some {mk : Word → Instr} {id : Nat} {op : Byte} (haddr : ∀ v, addrOf (mk v) = some v)
    (hid : ∀ v, cmdIdOf (mk v) = id) (hop : ∀ v, defaultOpcodes.opcodeOf (mk v) = op) : Addr24Completes mk id op := by
  intro v s
  obtain rfl := hid v
  obtain rfl := hop v
  have hc : (commandOf (mk v)).OfTable OPTAB := commandOf_ofTable defaultOpcodes (mk v)
  have hf : serializeCommand OPTAB (commandOf (mk v)) = .ok (.a24 (defaultOpcodes.opcodeOf (mk v)) (encode24 v)) := by
    rw [serializeCommand, commandOf, haddr]
    exact serialize_of_addr24 (optabOf_byId_cmdIdOf defaultOpcodes (mk v)) (Instr.shape_of_addrOf_some (haddr v)) v
  have hword : (Frame.a24 (defaultOpcodes.opcodeOf (mk v)) (encode24 v)).word =
      ((v &&& 0x00FFFFFF#32) <<< 8) ||| (defaultOpcodes.opcodeOf (mk v)).zeroExtend 32 := by
    rw [Frame.word_a24, encode24, wordOfBytes3_byteAt, canon24]
  have hser : ∀ a, serUnit OPTAB (⟨BitVec.ofNat CMD_ID_W (cmdIdOf (mk v)), (addrOf (mk v)).getD a⟩ : SerIn) =
      ⟨((v &&& 0x00FFFFFF#32) <<< 8) ||| (defaultOpcodes.opcodeOf (mk v)).zeroExtend 32, 4#3, 0#3⟩ :=
    hword ▸ serUnit_frame OPTAB_admissible hc hf
  have hflen : flenUnit OPTAB (⟨BitVec.ofNat CMD_ID_W (cmdIdOf (mk v))⟩ : FlenIn) = ⟨4#3, 0#3⟩ :=
    flenUnit_frame OPTAB_admissible hc hf
  refine ⟨presentCommand (commandOf (mk v)) s, exec_eq (mk v) s, ?ser, presentCommand_flen _ _ s, hser _, hflen, ?replies,
    presentCommand_onlySerFlenDriven _ _ s⟩
  case ser => rw [presentCommand_ser, commandOf, haddr, Option.getD_some]
  case replies => rw [presentCommand_replies, commandOf, hser, hflen]

/-- Settles O29: the three commands have no address. -/
theorem noPayloadCommandsComplete : Obligations.NoPayloadCommandsComplete :=
  ⟨noPayloadCompletes_of_addrOf_none (i := .readJEDECID) rfl, noPayloadCompletes_of_addrOf_none (i := .writeEnable) rfl,
    noPayloadCompletes_of_addrOf_none (i := .reset) rfl⟩

/-- Settles O30: the six commands have an address. -/
theorem addressCarryingCommandsComplete : Obligations.AddressCarryingCommandsComplete := by
  refine ⟨?_, ?_, ?_, ?_, ?_, ?_⟩
  all_goals exact addr24Completes_of_addrOf_some (fun _ => rfl) (fun _ => rfl) fun _ => rfl

/-- Settles O31: SER and FLEN answer an address-carrying command by its identifier and its address alone, whatever the ports
held before. -/
theorem pageProgramNeedsNoWriteEnable : Obligations.PageProgramNeedsNoWriteEnable := by
  intro s v
  have hser : ∀ t : State, (presentCommand (commandOf (.pageProgram v)) t).serOut =
      serUnit OPTAB ⟨BitVec.ofNat CMD_ID_W ID_PAGE_PROGRAM, v⟩ := fun t => presentCommand_serOut OPTAB _ t
  have hflen : ∀ t : State, (presentCommand (commandOf (.pageProgram v)) t).flenOut =
      flenUnit OPTAB ⟨BitVec.ofNat CMD_ID_W ID_PAGE_PROGRAM⟩ := fun t => presentCommand_flenOut OPTAB _ t
  exact ⟨_, _, _, _, _, exec_eq _ s, exec_eq _ s, exec_eq _ s, exec_eq _ _, exec_eq _ _, by rw [hser, hser],
    by rw [hser, hser], by rw [hflen, hflen], by rw [hflen, hflen]⟩

/-- Settles O45: each frame format is the equation for receiving it. -/
theorem receivingAFrameDrivesOnlyExtractorAndDeserializer :
    Obligations.ReceivingAFrameDrivesOnlyExtractorAndDeserializer := by
  refine ⟨fun s op => ?np, fun s op a => ?a24⟩
  case np =>
    exact ⟨receiveFrame_ser _ _ s, receiveFrame_flen _ _ s, by rw [receiveFrame_np]; rfl, receiveFrame_pending _ _ s,
      by rw [receiveFrame_np]; rfl, receiveFrame_replies _ _ s⟩
  case a24 =>
    exact ⟨receiveFrame_ser _ _ s, receiveFrame_flen _ _ s, by rw [receiveFrame_a24]; rfl, receiveFrame_pending _ _ s,
      by rw [receiveFrame_a24]; rfl, receiveFrame_replies _ _ s⟩

end Sys2Proof
end

section
/-! PROOFS. The step: what it does to each next invocation, said once for the machine of the nine instructions and for the
machine of any opcode table; from that the answers of a step and of a run, and the invariant that every answer is sane. -/

namespace Sys2Proof

namespace Machine

/-! ## The deserialized command -/

/-- `run` runs a command as its pair and `named` names commands as the table names pairs (assumptions 5 and 6): what makes
`stepWith T run named` a machine of the table. `pair` is a command as a pair. -/
structure RunsPairs {w : Nat} {I : Type} (T : Optab) (run : I → State w I → Host.Outcome (State w I) Fault Refusal)
    (named : Nat → Word → Option I) (pair : I → Command) : Prop where
  run_eq : ∀ i s, run i s = .next (presentCommand (pair i) s T)
  map_named : ∀ id v, (named id v).map pair = commandNamed T id v

/-- R29: the instruction an identifier names has that identifier. -/
theorem cmdIdOf_of_instrOf {id : Nat} {v : Word} {i : Instr} (h : instrOf id v = some i) : cmdIdOf i = id := by
  revert h
  rw [instrOf]
  split_ifs with hid hid hid hid hid hid hid hid hid <;> intro h <;> cases h <;> exact hid.symm

/-- R29, D8: an identifier names an instruction as it names the pair of a row of the default table. -/
theorem map_instrOf (id : Nat) (v : Word) : (instrOf id v).map commandOf = commandNamed OPTAB id v := by
  obtain hid | hid := Nat.lt_or_ge id 9
  · interval_cases id <;> rfl
  · have hnone : OPTAB.byId id = none := by
      refine Optab.byId_none.2 fun r hr hrid => ?_
      obtain ⟨i, rfl⟩ := mem_optabOf_iff.1 hr
      have hlt := cmdIdOf_lt i
      simp only [Opcodes.rowOf] at hrid
      omega
    have hinstr : instrOf id v = none := Option.eq_none_iff_forall_ne_some.2 fun i hi => by
      have hlt := cmdIdOf_lt i
      have hcmd := cmdIdOf_of_instrOf hi
      omega
    rw [commandNamed, hnone, hinstr, Option.map_none]

/-- The machine of the nine instructions. -/
theorem runsPairs_exec : RunsPairs OPTAB exec instrOf commandOf := ⟨exec_eq, map_instrOf⟩

/-- The machine of any opcode table. -/
theorem runsPairs_execCommand {w : Nat} (T : Optab) :
    RunsPairs (w := w) T (execCommand T) (commandNamed T) id := ⟨fun _ _ => rfl, fun _ _ => Option.map_id_apply⟩

/-- R120: no error has the code of success. -/
theorem errorCode_ne_noError (e : Error) : errorCode e ≠ noError := by cases e <;> decide

section Step

variable {w : Nat} {I : Type} {reserved : List Byte} {T : Optab}
  {run : I → State w I → Host.Outcome (State w I) Fault Refusal} {named : Nat → Word → Option I} {pair : I → Command}

/-- A Command of the table is named by its identifier and its address, where it has one. -/
theorem commandNamed_ofTable (hT : T.Admissible w reserved) {c : Command} (hc : c.OfTable T) :
    commandNamed T c.id (c.addr.getD 0#32) = some c := by
  obtain ⟨r, hr, ⟨hs, rfl⟩ | ⟨hs, v, rfl⟩⟩ := hc.byId hT
  · simp [commandNamed, hr, hs]
  · simp [commandNamed, hr, hs]

/-- R102, R149: where the deserializer gives a Command for a received frame, DES's outputs name it. -/
theorem deserialized_of_ok (hT : T.Admissible w reserved) (hm : RunsPairs T run named pair) {f : Frame} {c : Command}
    (h : deserializeFrame T f = .ok c) (s : State w I) :
    ∃ i, deserialized T named (receiveFrame f s T) = some i ∧ pair i = c := by
  have hc : c.OfTable T := (deserialize_ok_ofTable hT h).1
  have hout : (receiveFrame f s T).desOut T = ⟨noError, BitVec.ofNat w c.id, c.addr.getD 0#32⟩ := by
    rw [receiveFrame_desOut, h]
    rfl
  rw [deserialized, hout, if_pos rfl, toNat_ofNat_ofTable hT hc]
  exact Option.map_eq_some_iff.1 ((hm.map_named _ _).trans (commandNamed_ofTable hT hc))

/-- R129, R149: where it gives an error, there is no command on DES's outputs. -/
theorem deserialized_of_err {f : Frame} {e : Error} (h : deserializeFrame T f = .err e) (s : State w I) :
    deserialized T named (receiveFrame f s T) = none := by
  rw [deserialized, receiveFrame_desOut, h]
  exact if_neg (errorCode_ne_noError e)

/-! ## What a step does -/

/-- What making an invocation does to a state from whose list it was taken (assumptions 5 and 6). -/
def advance (T : Optab) (pair : I → Command) : Invocation w I → State w I → State w I
  | .port r, s => invokePort r s T
  | .command i, s => presentCommand (pair i) s T
  | .received f, s =>
    match deserializeFrame T f with
    | .ok c => presentCommand c (receiveFrame f s T) T
    | .err _ => receiveFrame f s T

theorem advance_received_ok {f : Frame} {c : Command} (h : deserializeFrame T f = .ok c) (s : State w I) :
    advance T pair (.received f) s = presentCommand c (receiveFrame f s T) T := by
  simp [advance, h]

theorem advance_received_err {f : Frame} {e : Error} (h : deserializeFrame T f = .err e) (s : State w I) :
    advance T pair (.received f) s = receiveFrame f s T := by
  simp [advance, h]

/-- The state after a step. -/
def nextState (T : Optab) (pair : I → Command) (s : State w I) : State w I :=
  match s.pending with
  | [] => s
  | inv :: q => advance T pair inv (s.setPending q)

theorem nextState_nil {s : State w I} (h : s.pending = []) : nextState T pair s = s := by simp [nextState, h]

theorem nextState_cons {s : State w I} {inv : Invocation w I} {q : List (Invocation w I)} (h : s.pending = inv :: q) :
    nextState T pair s = advance T pair inv (s.setPending q) := by simp [nextState, h]

/-- Every step completes, in `nextState` (R31, R148). -/
theorem stepWith_eq_next (hT : T.Admissible w reserved) (hm : RunsPairs T run named pair) (s : State w I) :
    stepWith T run named s = .next (nextState T pair s) := by
  cases hq : s.pending with
  | nil => rw [nextState_nil hq, stepWith_idle T run named s hq]
  | cons inv q =>
    rw [nextState_cons hq]
    cases inv with
    | port r => exact stepWith_port T run named s r q hq
    | command i => rw [stepWith_command T run named s i q hq, hm.run_eq, advance]
    | received f =>
      cases hf : deserializeFrame T f with
      | ok c =>
        obtain ⟨i, hi, rfl⟩ := deserialized_of_ok hT hm hf (s.setPending q)
        rw [stepWith_received_some T run named s f q i hq hi, hm.run_eq, advance_received_ok hf]
      | err e =>
        rw [stepWith_received_none T run named s f q hq (deserialized_of_err hf _), advance_received_err hf]

/-- An invocation adds nothing to the list of pending invocations and takes nothing from it. -/
theorem advance_pending (inv : Invocation w I) (s : State w I) : (advance T pair inv s).pending = s.pending := by
  cases inv with
  | port r => exact invokePort_pending T r s
  | command i => exact presentCommand_pending T _ s
  | received f =>
    cases hf : deserializeFrame T f with
    | ok c => rw [advance_received_ok hf, presentCommand_pending, receiveFrame_pending]
    | err e => rw [advance_received_err hf, receiveFrame_pending]

/-- Running a Command of the table answers its frame and its length. -/
theorem presentCommand_replies_ofTable (hT : T.Admissible w reserved) {c : Command} (hc : c.OfTable T) (s : State w I) :
    (presentCommand c s T).replies = s.replies ++ commandAnswers c T := by
  rw [presentCommand_replies, serUnit_ofTable hT hc, flenUnit_ofTable hT hc, commandAnswers]

/-- R13: an invocation is answered by the value-level functions of its own inputs, where a command is a Command of the
table. -/
theorem advance_replies (hT : T.Admissible w reserved) {inv : Invocation w I}
    (hinv : ∀ i, inv = .command i → (pair i).OfTable T) (s : State w I) :
    (advance T pair inv s).replies = s.replies ++ answersWith T pair inv := by
  cases inv with
  | port r => exact invokePort_replies T r s
  | command i => exact presentCommand_replies_ofTable hT (hinv i rfl) s
  | received f =>
    cases hf : deserializeFrame T f with
    | ok c =>
      have hc : c.OfTable T := (deserialize_ok_ofTable hT hf).1
      rw [advance_received_ok hf, presentCommand_replies_ofTable hT hc, receiveFrame_replies]
      simp [answersWith, runAnswers, hf]
    | err e =>
      rw [advance_received_err hf, receiveFrame_replies]
      simp [answersWith, runAnswers, hf]

theorem advance_sane (hT : T.Admissible w reserved) (inv : Invocation w I) {s : State w I} (hs : s.Sane T) :
    (advance T pair inv s).Sane T := by
  cases inv with
  | port r => exact invokePort_sane hT r hs
  | command i => exact presentCommand_sane (pair i) hs
  | received f =>
    cases hf : deserializeFrame T f with
    | ok c =>
      rw [advance_received_ok hf]
      exact presentCommand_sane c (receiveFrame_sane hT f hs)
    | err e =>
      rw [advance_received_err hf]
      exact receiveFrame_sane hT f hs

/-- Every step keeps every answer sane (R24, R88, R89, R99, R102), whatever is pending. -/
theorem stepWith_sane (hT : T.Admissible w reserved) (hm : RunsPairs T run named pair) {s t : State w I} (hs : s.Sane T)
    (h : stepWith T run named s = .next t) : t.Sane T := by
  rw [stepWith_eq_next hT hm] at h
  injection h with h
  subst h
  cases hq : s.pending with
  | nil => rwa [nextState_nil hq]
  | cons inv q =>
    rw [nextState_cons hq]
    exact advance_sane hT inv hs

/-! ## A run -/

/-- The machine of a step `stepWith T run named`, behind Host/Core.lean. -/
def coreWith (T : Optab) (run : I → State w I → Host.Outcome (State w I) Fault Refusal)
    (named : Nat → Word → Option I) (reset : State w I) : Host.Core :=
  { State := State w I, Fault := Fault, Refusal := Refusal, step := stepWith T run named, reset := reset }

/-- A run goes on from the next state of its first step. -/
theorem run_succ_of_step {M : Host.Core} {s s' : M.State} (h : M.step s = .next s') (k : Nat) :
    M.run (k + 1) s = M.run k s' := by
  simp [Host.Core.run, h]

/-- A run of as many steps as there are pending invocations makes them all and answers each as if it were alone. -/
theorem run_answers (hT : T.Admissible w reserved) (hm : RunsPairs T run named pair) (reset : State w I) (s : State w I)
    (hs : ∀ i, .command i ∈ s.pending → (pair i).OfTable T) :
    ∃ t : State w I, (coreWith T run named reset).run s.pending.length s = .next t ∧
      t.pending = [] ∧ t.replies = s.replies ++ s.pending.flatMap (answersWith T pair) := by
  generalize hq : s.pending = q at hs
  induction q generalizing s with
  | nil => exact ⟨s, rfl, hq, by simp⟩
  | cons inv q ih =>
    have hstep : (coreWith T run named reset).step s = .next (advance T pair inv (s.setPending q)) :=
      nextState_cons (pair := pair) hq ▸ stepWith_eq_next hT hm s
    obtain ⟨t, hrun, hdone, hreplies⟩ := ih (advance T pair inv (s.setPending q)) (advance_pending inv _)
      fun i hi => hs i (List.mem_cons_of_mem _ hi)
    refine ⟨t, ?_, hdone, ?_⟩
    · exact (run_succ_of_step hstep q.length).trans hrun
    · rw [hreplies, advance_replies hT fun i hi => hs i (hi ▸ List.mem_cons_self)]
      simp

end Step

/-! ## The machine of the nine instructions among those of any table -/

/-- Every pending instruction is a Command of the default table. -/
theorem commandOf_ofTable_OPTAB (i : Instr) : (commandOf i).OfTable OPTAB := commandOf_ofTable defaultOpcodes i

theorem step_eq_next (s : State) : step s = .next (nextState OPTAB commandOf s) :=
  stepWith_eq_next OPTAB_admissible runsPairs_exec s

theorem advance_paired (inv : Invocation) (s : State) :
    advance OPTAB id inv.paired s.paired = (advance OPTAB commandOf inv s).paired := by
  cases inv with
  | port r => cases r <;> rfl
  | command i => rfl
  | received f =>
    have hreceive : receiveFrame f s.paired = (receiveFrame f s).paired := by cases f <;> rfl
    rw [Invocation.paired]
    cases hf : deserializeFrame OPTAB f with
    | ok c =>
      rw [advance_received_ok hf, advance_received_ok hf, hreceive]
      rfl
    | err e => rw [advance_received_err hf, advance_received_err hf, hreceive]

/-- Writing the pending instructions as Commands commutes with a step. -/
theorem nextState_paired (s : State) : nextState OPTAB id s.paired = (nextState OPTAB commandOf s).paired := by
  cases hq : s.pending with
  | nil => rw [nextState_nil hq, nextState_nil (by simp [State.paired, hq])]
  | cons inv q =>
    have hq' : s.paired.pending = inv.paired :: q.map Invocation.paired := by simp [State.paired, hq]
    rw [nextState_cons hq, nextState_cons hq', ← advance_paired]
    rfl

end Machine

open Machine

/-- Settles O54: the machine of any table runs pairs, so every step keeps every answer sane. -/
theorem everyStepOverAnyTableKeepsAnswersSane : Obligations.EveryStepOverAnyTableKeepsAnswersSane :=
  fun _ _ T hT _ _ hs h => stepWith_sane hT (runsPairs_execCommand T) hs h

/-- Settles O53: the machine of the nine instructions runs them as pairs of the default table, which is admissible. -/
theorem everyStepKeepsAnswersSane : Obligations.EveryStepKeepsAnswersSane :=
  fun _ _ hs h => stepWith_sane OPTAB_admissible runsPairs_exec hs h

/-- Settles O52: the run of the machine of any table. -/
theorem aRunOverAnyTableAnswersEachInvocationAsIfAlone : Obligations.ARunOverAnyTableAnswersEachInvocationAsIfAlone :=
  fun _ _ T hT s hs => run_answers hT (runsPairs_execCommand T) State.powerUp s hs

/-- Settles O51: the run of the machine of the nine instructions, each of which is a Command of the default table. -/
theorem aRunAnswersEachInvocationAsIfAlone : Obligations.ARunAnswersEachInvocationAsIfAlone :=
  fun s => run_answers OPTAB_admissible runsPairs_exec State.reset s fun i _ => commandOf_ofTable_OPTAB i

/-- Settles O50: the answers gained are those of `answersOf`, which reads no state. -/
theorem answersDependOnTheInvocationAlone : Obligations.AnswersDependOnTheInvocationAlone := by
  intro s s' inv q q'
  have hstep : ∀ (u : State) (p : List Invocation),
      step (u.setPending (inv :: p)) = .next (advance OPTAB commandOf inv (u.setPending p)) := fun u p => step_eq_next _
  have hreplies : ∀ (u : State) (p : List Invocation),
      (advance OPTAB commandOf inv (u.setPending p)).replies = u.replies ++ answersOf inv :=
    fun u p => advance_replies OPTAB_admissible (fun i _ => commandOf_ofTable_OPTAB i) (u.setPending p)
  exact ⟨_, _, answersOf inv, hstep s q, hstep s' q', hreplies s q, hreplies s' q', advance_pending inv _,
    advance_pending inv _⟩

/-- Settles O44: both steps complete, and writing the instructions as Commands commutes with them. -/
theorem theMachineIsTheAnyTableMachineAtTheDefaults : Obligations.TheMachineIsTheAnyTableMachineAtTheDefaults := by
  intro s
  refine ⟨nextState OPTAB commandOf s, step_eq_next s, ?_⟩
  rw [← nextState_paired]
  exact stepWith_eq_next OPTAB_admissible (runsPairs_execCommand OPTAB) s.paired

/-- Settles O49: with nothing pending a step is idle, and every step has its next state. -/
theorem everyStepCompletes : Obligations.EveryStepCompletes :=
  ⟨fun s => stepWith_idle OPTAB exec instrOf (s.setPending []) rfl, fun s => ⟨_, step_eq_next s⟩⟩

/-- Settles O43: a frame that decodes to a Command is one that the deserializer reads as it, and DES's outputs name it. -/
theorem stepRunsTheDecodedCommandOfAnyTable : Obligations.StepRunsTheDecodedCommandOfAnyTable := by
  intro w reserved T hT s q c
  refine ⟨rfl, fun f hf => ?received⟩
  have hread : deserializeFrame T f = .ok c := (decodeCommand_frame_iff hT).1 hf
  obtain ⟨d, hd, rfl⟩ := deserialized_of_ok hT (runsPairs_execCommand T) hread (s.setPending q)
  exact stepWith_received_some T _ _ _ f q d rfl hd

/-- Settles O42: the same of the nine instructions, where the pair on DES's outputs is that of one instruction alone. -/
theorem stepRunsTheDecodedCommand : Obligations.StepRunsTheDecodedCommand := by
  intro s q i
  refine ⟨rfl, fun f hf => ?received⟩
  have ho := optabOf_admissible_iff.1 OPTAB_admissible
  have hread : deserializeFrame OPTAB f = .ok (commandOf i) := (deserializerReadsWhatTheDecoderReads _ _ ho f i).2 hf
  obtain ⟨j, hj, hij⟩ := deserialized_of_ok OPTAB_admissible runsPairs_exec hread (s.setPending q)
  obtain rfl : j = i := commandOf_injective hij
  exact stepWith_received_some OPTAB _ _ _ f q j rfl hj

/-- A word whose bytes decode to a command is placed as the frame of those bytes, which decodes to it with nothing left
(assumption 11). -/
theorem decode_frameOfWord {reserved : List Byte} {o : Opcodes} (ho : o.Admissible reserved) {v : Word} {i : Instr}
    {rest : List Byte} (h : decode (bytesOfWord v) o = .command i rest) :
    decode (frameOfWord v o).bytes o = .command i [] := by
  obtain ⟨b, hbytes, hb⟩ | ⟨b, a, hbytes, hnp, hb⟩ := decodeBy_command_inv h
  · obtain rfl : byteAt v 0 = b := (List.cons.inj hbytes).1
    have hframe : frameOfWord v o = .np (byteAt v 0) := by
      cases ha : decodeAddr24 o (byteAt v 0) 0#32 with
      | none => simp [frameOfWord, ha]
      | some j => simp [decodeNoPayload_none_of_decodeAddr24 ho ha] at hb
    rw [hframe]
    exact decodeBy_np hb []
  · obtain ⟨b0, b1, b2⟩ := a
    obtain ⟨rfl, rfl, rfl, rfl, -⟩ :
        byteAt v 0 = b ∧ byteAt v 1 = b0 ∧ byteAt v 2 = b1 ∧ byteAt v 3 = b2 ∧ [] = rest := by
      simpa [bytesOfWord, Frame.bytes] using hbytes
    have hframe : frameOfWord v o = .a24 (byteAt v 0) ⟨byteAt v 1, byteAt v 2, byteAt v 3⟩ := by
      obtain ⟨hi, hop⟩ := decodeAddr24_some hb
      obtain ⟨j, hj⟩ := decodeAddr24_opcodeOf (o := o) hi 0#32
      rw [hop] at hj
      simp [frameOfWord, hj]
    rw [hframe]
    exact decodeBy_a24 hnp hb []

/-- Settles O46: the placed frame decodes to the command of the word, so the step runs it. -/
theorem stepRunsThePlacedWord : Obligations.StepRunsThePlacedWord := by
  intro s nbits v i h
  have hdec : ∃ rest, decode (bytesOfWord (tableWord nbits v)) = .command i rest := by
    rw [decodeTableWord] at h
    cases hd : decode (bytesOfWord (tableWord nbits v)) with
    | command j rest => exact ⟨rest, by simpa [hd] using h⟩
    | rejected why => simp [hd] at h
  obtain ⟨rest, hdec⟩ := hdec
  exact (stepRunsTheDecodedCommand s s.pending i).2 _
    (decode_frameOfWord (optabOf_admissible_iff.1 OPTAB_admissible) hdec)

/-- Settles O47: where the deserializer fails the step receives the frame and does no more. -/
theorem aBadFrameIsAnsweredAndRunsNothing : Obligations.ABadFrameIsAnsweredAndRunsNothing := by
  intro s f q e h
  have hread : deserializeFrame OPTAB f = .err e := h
  have hstep : step (s.setPending (.received f :: q)) = .next (receiveFrame f (s.setPending q)) :=
    stepWith_received_none OPTAB _ _ _ f q rfl (deserialized_of_err hread _)
  have hreplies := receiveFrame_replies OPTAB f (s.setPending q)
  have hout := receiveFrame_desOut OPTAB f (s.setPending q)
  rw [hread] at hreplies hout
  refine ⟨_, hstep, receiveFrame_ser _ f _, receiveFrame_flen _ f _, receiveFrame_pending _ f _, ?_⟩
  cases f with
  | np op => exact ⟨rfl, rfl, rfl, hout, rfl, hreplies⟩
  | a24 op a => exact ⟨rfl, rfl, rfl, hout, rfl, hreplies⟩

/-- Settles O48: each request is one unit's invocation. -/
theorem portInvocationsDriveOnlyTheirUnit : Obligations.PortInvocationsDriveOnlyTheirUnit := by
  intro s q r
  refine ⟨invokePort r (s.setPending q), stepWith_port OPTAB _ _ _ r q rfl, invokePort_pending _ r _,
    invokePort_replies _ r _, ?ports⟩
  cases r <;> exact ⟨rfl, rfl, rfl, rfl⟩

/-- Settles O55: reset gives every field, and the outputs are computed from the zero inputs. -/
theorem resetIsSaneAndIdle : Obligations.ResetIsSaneAndIdle := by
  refine ⟨fun r hr => absurd hr List.not_mem_nil, rfl, rfl, rfl, rfl, rfl, rfl, rfl, ?ser, ?flen, ?aenc, ?des⟩
  case ser => decide
  case flen => decide
  case aenc => decide
  case des => decide

end Sys2Proof
end
